-- ==== Sys2Proof/Word.lean ====
section
/-! DEFINITION. The word types of the block: bytes, the 32-bit result word, the 64-bit glyph pattern. -/

namespace Sys2Proof

/-- "A byte is 8 bits, unsigned, 0..255" (`00_scope.md` R9). -/
abbrev Byte := BitVec 8

/-- The width of the result word and of LASTRES (`30_encoding.md` R70, `10_state.md` R17). -/
abbrev Word := BitVec 32

/-- One glyph: "a 64-bit pattern encoding an 8×8 glyph column-major" (`20_memory.md` R43). -/
abbrev GlyphWord := BitVec 64

/-- A SpiMode under its number m in 0..3 (`30_encoding.md` R67). -/
abbrev SpiMode := BitVec 2

end Sys2Proof
end

