-- ==== Sys2Proof/Syntax.lean ====
section
/-! DEFINITION. The instructions: one constructor per row of spec/opcode_table.json. -/

namespace Sys2Proof

/-- BitOrder: "MSB-first or LSB-first; determines shift direction when serializing a byte"
(`00_scope.md` section 7, `20_memory.md` R47). -/
inductive BitOrder where
  | msbFirst
  | lsbFirst
  deriving DecidableEq, Repr, Inhabited

/-- The two encoding spaces of the opcode table: packets the host sends (`30_encoding.md` R60), and
command bytes the block sends to the display (`30_encoding.md` R71), which the block never decodes. -/
inductive Space where
  | host
  | wire
  deriving DecidableEq, Repr

/-- The rows of spec/opcode_table.json. An operand that the spec checks only after admission
(`60_exceptions.md` R127) is held as the packet gives it, so that a wrong one can be expressed. -/
inductive Instr where
  /-- Packet `01` (`30_encoding.md` R62). -/
  | powerup
  /-- Packet `02` (`30_encoding.md` R63). -/
  | powerdown
  /-- Packet `03 W H payload` (`30_encoding.md` R64). -/
  | drawframe (w h : Byte) (payload : List Byte)
  /-- Packet `04 f c0 .. c15`, `f = inv ++ rsv ++ row` (`30_encoding.md` R65). -/
  | drawtext (inv : Bool) (rsv : BitVec 3) (row : BitVec 4) (line : List Byte)
  /-- Packet `05 data mode order` (`30_encoding.md` R66). -/
  | writebyte (data mode order : Byte)
  /-- Wire command byte `10110ppp` (`30_encoding.md` R71). -/
  | setpage (p : BitVec 3)
  /-- Wire command byte 0x02 (`30_encoding.md` R71). -/
  | setcollo
  /-- Wire command byte 0x10 (`30_encoding.md` R71). -/
  | setcolhi
  deriving DecidableEq, Repr

/-- The space an instruction's encoding belongs to. -/
def Instr.space (i : Instr) : Space :=
  match i with
  | .powerup => .host
  | .powerdown => .host
  | .drawframe _ _ _ => .host
  | .drawtext _ _ _ _ => .host
  | .writebyte _ _ _ => .host
  | .setpage _ => .wire
  | .setcollo => .wire
  | .setcolhi => .wire

end Sys2Proof
end

