-- ==== Sys2Proof/WellFormed.lean ====
section
/-! DEFINITION. When an instruction is the content of a well-formed packet (`30_encoding.md` R62 to R66). -/

namespace Sys2Proof

/-- Well-formedness is about the packet's length only: DRAWTEXT is "well-formed when n = 18", so its
line has 16 characters (R65); the other constructors cannot express a wrong length. Whether the operand
VALUES are valid is decided after admission (`60_exceptions.md` R127), by the meanings. -/
def Instr.wellFormed (i : Instr) : Bool :=
  match i with
  | .powerup => true
  | .powerdown => true
  | .drawframe _ _ _ => true
  | .drawtext _ _ _ line => line.length == 16
  | .writebyte _ _ _ => true
  | .setpage _ => true
  | .setcollo => true
  | .setcolhi => true

/-- The same as a proposition. -/
abbrev Instr.WellFormed (i : Instr) : Prop := i.wellFormed = true

end Sys2Proof
end

