-- ==== Sys2Proof/Decode.lean ====
section
/-! DEFINITION. Decoding and encoding of host command packets (`30_encoding.md` R60 to R69) and of the
three wire command bytes (`30_encoding.md` R71). -/

namespace Sys2Proof

/-- Why a packet is malformed (`30_encoding.md` R69). -/
inductive Malformed where
  /-- "n = 0". -/
  | empty
  /-- "`b[0]` is none of 0x01..0x05". -/
  | unknownOpcode (op : Byte)
  /-- "n does not meet the length its format requires". -/
  | badLength (op : Byte) (n : Nat)
  deriving DecidableEq, Repr

/-- `b[1]` of DRAWTEXT: `inv(bit 7) ++ zero(bits 6:4) ++ row(bits 3:0)` (`30_encoding.md` R61, R65). -/
def textFlags (inv : Bool) (rsv : BitVec 3) (row : BitVec 4) : Byte :=
  BitVec.ofBool inv ++ rsv ++ row

/-- The block's decoder: a packet is the list of its bytes, its length given by the framing
(`30_encoding.md` R60, R75). Total; a malformed packet is rejected by name. -/
def decode (b : List Byte) : Except Malformed Instr :=
  match b with
  | [] => .error .empty
  | op :: rest =>
    if op = 0x01 then
      match rest with
      | [] => .ok .powerup
      | _ :: _ => .error (.badLength op b.length)
    else if op = 0x02 then
      match rest with
      | [] => .ok .powerdown
      | _ :: _ => .error (.badLength op b.length)
    else if op = 0x03 then
      match rest with
      | w :: h :: payload => .ok (.drawframe w h payload)
      | [_] => .error (.badLength op b.length)
      | [] => .error (.badLength op b.length)
    else if op = 0x04 then
      match rest with
      | f :: line =>
        if line.length = 16 then
          .ok (.drawtext (f.getLsbD 7) (f.extractLsb' 4 3) (f.extractLsb' 0 4) line)
        else .error (.badLength op b.length)
      | [] => .error (.badLength op b.length)
    else if op = 0x05 then
      match rest with
      | [data, mode, order] => .ok (.writebyte data mode order)
      | _ => .error (.badLength op b.length)
    else .error (.unknownOpcode op)

/-- The wire command bytes the opcode table gives by value (`30_encoding.md` R71). The block itself never
decodes them ("never decoded by the block", opcode_table.json); this reads the table's wire rows. -/
def decodeWire (b : List Byte) : Option Instr :=
  match b with
  | [v] =>
    if v.extractLsb' 3 5 = 0b10110 then some (.setpage (v.extractLsb' 0 3))
    else if v = 0x02 then some .setcollo
    else if v = 0x10 then some .setcolhi
    else none
  | _ => none

/-- Decoding in one of the table's two spaces. -/
def decodeIn (sp : Space) (b : List Byte) : Option Instr :=
  match sp with
  | .host => (decode b).toOption
  | .wire => decodeWire b

/-- The bytes of an instruction: a packet (`30_encoding.md` R62 to R66) or the one wire byte
(`30_encoding.md` R71). -/
def encode (i : Instr) : List Byte :=
  match i with
  | .powerup => [0x01]
  | .powerdown => [0x02]
  | .drawframe w h payload => 0x03 :: w :: h :: payload
  | .drawtext inv rsv row line => 0x04 :: textFlags inv rsv row :: line
  | .writebyte data mode order => [0x05, data, mode, order]
  | .setpage p => [0b10110#5 ++ p]
  | .setcollo => [0x02]
  | .setcolhi => [0x10]

/-- The n low bytes of w, the least significant first (bit 0 of w is bit 0 of `b[0]`). -/
def wordBytes (n w : Nat) : List Byte :=
  match n with
  | 0 => []
  | k + 1 => BitVec.ofNat 8 w :: wordBytes k (w / 256)

/-- The shortest well-formed length of a packet with this opcode (`30_encoding.md` R61); 1 where the byte
is no opcode. -/
def packetLength (op : Byte) : Nat :=
  if op = 0x03 then 3 else if op = 0x04 then 18 else if op = 0x05 then 4 else 1

/-- The packet whose bits are w, numbered as the opcode table numbers them; every bit above nbits that
the shortest packet of that opcode has is 0 (log entry 13). -/
def packetOfWord (nbits w : Nat) : List Byte :=
  wordBytes (max ((nbits + 7) / 8) (packetLength (BitVec.ofNat 8 w))) (w % 2 ^ nbits)

/-- The instruction whose bits are w. The table mixes two spaces: a host packet is read first, and only a
byte that starts no packet of the host is read as a wire command byte (log entry 5). -/
def decodeTableWord (nbits w : Nat) : Option Instr :=
  match decode (packetOfWord nbits w) with
  | .ok i => some i
  | .error _ => decodeWire (packetOfWord nbits w)

end Sys2Proof
end

