-- ==== Sys2Proof/Config.lean ====
section
/-! DEFINITION. What an implementation fixes and what the spec leaves open (`00_scope.md` R6). The OPEN
parameters are data the block is injected with; the answers of the Digital I/O Port are a free value. -/

namespace Sys2Proof

/-- The OPEN parameters of `00_scope.md` R6 that a rule reads: chip select's "listening" level (D7), the
session's transport configuration (D12), the 25 initialization bytes (D11) and the glyph patterns (D13).
`glyphs` holds the 94 patterns of 0x21..0x7E; the pattern of 0x20 is fixed by the spec
(`GLYPH[0] = 0`, `42_page_converter.md` R113) and has no cell that could hold another value. -/
structure Params where
  /-- CS_ACTIVE. -/
  csActive : Bool
  /-- CFG_MODE, constrained to 0..3. -/
  cfgMode : SpiMode
  /-- CFG_ORDER. -/
  cfgOrder : BitOrder
  /-- INIT_SEQ, entry 0 sent first (`20_memory.md` R44). -/
  initSeq : Vector Byte 25
  /-- GLYPH[1] .. GLYPH[94]. -/
  glyphs : Vector GlyphWord 94
  deriving DecidableEq, Repr, Inhabited

/-- What the Digital I/O Port answers to a call (`00_scope.md` R9). -/
inductive Answer where
  | ok
  | fail
  deriving DecidableEq, Repr, Inhabited

/-- FREE (log entry 1): the parameters the block is injected with before it starts; no rule depends on
a value (R6: `OPEN` means the model takes it as an argument). -/
opaque Config.params : Params

/-- FREE (log entry 2): the port's answer to the n-th call past the answers that `State.answers` lists;
"the model takes these answers from an oracle and assumes nothing of them" (`00_scope.md` R7). -/
opaque Config.portAnswer : Nat → Answer

/-- FREE (log entry 15): PINMAP, an injective map from roles to physical pins (`20_memory.md` R46).
Every injective map of the seven role indexes into the numbers is part of some permutation of them, so
the parameter is held as one and is injective by its type. -/
opaque Config.pinPerm : Equiv.Perm Nat

end Sys2Proof
end

