-- ==== Sys2Proof/Machine/State.lean ====
section
/-! DEFINITION. The whole state of the block (`10_state.md` R10), the model's own fields beside it, the
state after hardware reset, and the reasons a step could stop. -/

namespace Sys2Proof.Machine

/-- The seven pin roles in scope (`10_state.md` R11). -/
inductive Role where
  | clk
  | mosi
  | miso
  | cs
  | dc
  | rst
  | bl
  deriving DecidableEq, Repr

/-- One cell per role (`10_state.md` R12, R13). -/
structure Pins (α : Type) where
  clk : α
  mosi : α
  miso : α
  cs : α
  dc : α
  rst : α
  bl : α
  deriving DecidableEq, Repr

/-- The same value in every cell. -/
def Pins.all {α : Type} (v : α) : Pins α := ⟨v, v, v, v, v, v, v⟩

/-- Cell r. -/
def Pins.get {α : Type} (p : Pins α) (r : Role) : α :=
  match r with
  | .clk => p.clk
  | .mosi => p.mosi
  | .miso => p.miso
  | .cs => p.cs
  | .dc => p.dc
  | .rst => p.rst
  | .bl => p.bl

/-- Cell r replaced. -/
def Pins.set {α : Type} (p : Pins α) (r : Role) (v : α) : Pins α :=
  match r with
  | .clk => { p with clk := v }
  | .mosi => { p with mosi := v }
  | .miso => { p with miso := v }
  | .cs => { p with cs := v }
  | .dc => { p with dc := v }
  | .rst => { p with rst := v }
  | .bl => { p with bl := v }

/-- A direction `setDirection` can be asked for (`00_scope.md` R9). A DIR cell is an `Option` of it, `none`
being the spec's own value `none` (`10_state.md` R12). -/
inductive PinDir where
  | input
  | output
  deriving DecidableEq, Repr

/-- A cell of LVL: 0, 1, or U, "no level is known", never to be replaced by 0 or 1 (`10_state.md` R13). -/
inductive Level where
  | low
  | high
  | unknown
  deriving DecidableEq, Repr

/-- LIFE, the lifecycle state; the codes 6 and 7 do not exist (`10_state.md` R14). -/
inductive Life where
  | uninitialized
  | pinsAcquired
  | reset
  | commandInitialized
  | ready
  | shutDown
  deriving DecidableEq, Repr

/-- The events of TRACE (`00_scope.md` R9, `10_state.md` R24). -/
inductive PortEvent where
  /-- `A(r)`. -/
  | acquire (r : Role)
  /-- `X(r)`. -/
  | release (r : Role)
  /-- `D(r,d)`. -/
  | setDirection (r : Role) (d : PinDir)
  /-- `W(r,v)`. -/
  | write (r : Role) (v : Bool)
  /-- `Rd(r)`, which no rule issues (`40_spi_transport.md` R87). -/
  | read (r : Role)
  /-- `T(ms)`, which "has no answer and cannot fail". -/
  | delay (ms : Nat)
  deriving DecidableEq, Repr

/-- An event with the answer it got; a delay has none. -/
structure Entry where
  event : PortEvent
  answer : Option Answer
  deriving DecidableEq, Repr

/-- An entry `(dc, v, m, o)` of WIRE (`41_sh1106_controller.md` R104). -/
structure WireEntry where
  dc : Level
  byte : Byte
  mode : SpiMode
  order : BitOrder
  deriving DecidableEq, Repr

/-- A byte memory: the listed (address, byte) pairs; an address that is not listed reads 0x00 (log entries
6 and 8). Canonical form: `Memory.wf`. -/
abbrev Memory := List Host.Cell

/-- The canonical form: addresses strictly rising, and no entry equal to what an unlisted address reads
as, so that equal memories are equal data. -/
abbrev Memory.wf (m : Memory) : Prop :=
  m.Pairwise (fun c d => c.1 < d.1) ∧ ∀ c ∈ m, c.2 ≠ 0#8

/-- What reaches the block from outside, as the idle block sees it (log entry 3). -/
inductive Input where
  /-- A packet of the host, framed (`30_encoding.md` R60). -/
  | packet (bytes : List Byte)
  /-- The shutdown source raises its request (`60_exceptions.md` R125). -/
  | shutdown
  /-- A hardware reset (`70_reset_and_hazards.md` R140). -/
  | hardReset
  /-- Nothing arrives for a moment (`70_reset_and_hazards.md` R152). -/
  | idle
  deriving DecidableEq, Repr

/-- The state. The first part is `10_state.md` R10, piece by piece; the second is the model's own. -/
structure State where
  /-- LIFE (R14). -/
  life : Life
  /-- INITED (R15). -/
  inited : Bool
  /-- ACQ, bit r for role r (R12). -/
  acq : BitVec 7
  /-- DIR (R12). -/
  dir : Pins (Option PinDir)
  /-- SDREQ (R18). -/
  sdreq : Bool
  /-- PFAIL, bit r for role r (R16). -/
  pfail : BitVec 7
  /-- LASTRES (R17). -/
  lastres : Word
  /-- LVL (R13). -/
  lvl : Pins Level
  /-- SR (R19). -/
  sr : Byte
  /-- CLKV (R19). -/
  clkv : Bool
  /-- BITN (R19). -/
  bitn : Fin 8
  /-- PAGE (R20). -/
  page : Fin 8
  /-- COL (R20). -/
  col : Fin 128
  /-- INITI (R20). -/
  initi : Fin 25
  /-- CHI (R20). -/
  chi : Fin 16
  /-- GCOL (R20). -/
  gcol : Fin 8
  /-- PB, address page*128 + column (R21; `20_memory.md` R42). -/
  pb : Memory
  /-- FB, eight one-bit cells to a byte: cell i is bit i % 8 of byte i / 8 (R23; log entry 8). -/
  fb : Memory
  /-- TX (R23; `20_memory.md` R58). -/
  tx : Memory
  /-- TRACE, newest event FIRST (R24; log entry 11). `State.events` gives it in issue order. -/
  trace : List Entry
  /-- WIRE, newest entry FIRST (`41_sh1106_controller.md` R104; log entry 11). -/
  wire : List WireEntry
  /-- The model's own: the injected parameters, written by no step (R25; log entry 1). -/
  params : Params
  /-- The model's own: what will reach the block, oldest first (log entry 3). -/
  inbox : List Input
  /-- The model's own: the port's next answers, in order; past its end `Config.portAnswer` answers
  (log entry 2). -/
  answers : List Answer
  /-- The model's own: how many port calls have been answered (log entry 2). -/
  portCalls : Nat
  deriving DecidableEq, Repr

/-- The reasons a step stops with a fault: none. Every error of this hardware is the RESULT of a command,
after which the block is idle again (`60_exceptions.md` R120, R128), so no arm and no step raises a fault
(log entry 18). Safe: nothing is stopped. -/
inductive Fault where
  deriving DecidableEq, Repr

/-- The reasons a step is refused. -/
inductive Refusal where
  /-- An instruction without a meaning, rejected by name in `exec`. Raised by no arm: every row of the
  opcode table has its meaning. Safe. -/
  | notModelled (mnemonic : String)
  deriving DecidableEq, Repr

/-- The state after hardware reset (`10_state.md` R28, `70_reset_and_hazards.md` R140). The spec leaves SR,
CLKV, BITN, the counters, PB, FB and TX unspecified: 0 here, DESIGN CHOICE (log entry 6; no rule reads them
before writing them). The parameters are "as injected": free (log entry 1). -/
def State.reset : State where
  life := .uninitialized
  inited := false
  acq := 0#7
  dir := Pins.all none
  sdreq := false
  pfail := 0#7
  lastres := 0#32
  lvl := Pins.all .unknown
  sr := 0#8
  clkv := false
  bitn := 0
  page := 0
  col := 0
  initi := 0
  chi := 0
  gcol := 0
  pb := []
  fb := []
  tx := []
  trace := []
  wire := []
  params := Config.params
  inbox := []
  answers := []
  portCalls := 0

end Sys2Proof.Machine
end

