-- ==== Sys2Proof/Machine/Flags.lean ====
section
/-! DEFINITION. Role numbers, the per-role bit registers ACQ and PFAIL, the codes of LIFE and of the error
kinds, and the result word (`10_state.md` R11, R12, R14, R16; `30_encoding.md` R70; `60_exceptions.md` R120). -/

namespace Sys2Proof.Machine

/-- The index r of a role (`10_state.md` R11). -/
def Role.index (r : Role) : Nat :=
  match r with
  | .clk => 0
  | .mosi => 1
  | .miso => 2
  | .cs => 3
  | .dc => 4
  | .rst => 5
  | .bl => 6

/-- The seven roles in role order 0..6 (`10_state.md` R11; D6). -/
def roleOrder : List Role := [.clk, .mosi, .miso, .cs, .dc, .rst, .bl]

/-- PINMAP(r), the physical pin the port is called with (`20_memory.md` R46). TRACE records roles, so no
step reads it. -/
def Role.physicalPin (r : Role) : Nat := Config.pinPerm r.index

/-- Bit r of a per-role register. -/
def roleBit (b : BitVec 7) (r : Role) : Bool := b.getLsbD r.index

/-- `x[..][r] <- 1`. -/
def setRoleBit (b : BitVec 7) (r : Role) : BitVec 7 := b ||| BitVec.twoPow 7 r.index

/-- `x[..][r] <- 0`. -/
def clearRoleBit (b : BitVec 7) (r : Role) : BitVec 7 := b &&& ~~~(BitVec.twoPow 7 r.index)

/-- The level a written bit stands for. -/
def Level.ofBool (v : Bool) : Level :=
  match v with
  | false => .low
  | true => .high

/-- The 3-bit code of LIFE (`10_state.md` R14). -/
def Life.code (l : Life) : BitVec 3 :=
  match l with
  | .uninitialized => 0
  | .pinsAcquired => 1
  | .reset => 2
  | .commandInitialized => 3
  | .ready => 4
  | .shutDown => 5

/-- The four error kinds (`60_exceptions.md` R120). -/
inductive ErrorKind where
  | pinUnavailable
  | pinAccessError
  | invalidArgument
  | sequenceViolation
  deriving DecidableEq, Repr

/-- Bits 3:0 of the result word; `none` is `Ok` (`30_encoding.md` R70, `60_exceptions.md` R120). -/
def kindBits (k : Option ErrorKind) : BitVec 4 :=
  match k with
  | none => 0x0
  | some .pinUnavailable => 0x1
  | some .pinAccessError => 0x2
  | some .invalidArgument => 0x4
  | some .sequenceViolation => 0x8

/-- `RESULT(kind, mask)`: zero(31:22) ++ INITED(21) ++ ACQ(20:14) ++ LIFE(13:11) ++ FAILMASK(10:4) ++
kind(3:0), the state fields as they stand (`30_encoding.md` R70). -/
def resultWord (k : Option ErrorKind) (mask : BitVec 7) (s : State) : Word :=
  0#10 ++ BitVec.ofBool s.inited ++ s.acq ++ s.life.code ++ mask ++ kindBits k

end Sys2Proof.Machine
end

