-- ==== Sys2Proof/Machine/Ops.lean ====
section
/-! DEFINITION. The named operations over the state: byte memories, the port primitives, loops, the start
of a command and its end, with an error or without one. -/

namespace Sys2Proof.Machine

/-! ## Byte memories -/

/-- `MemRead(S:a, 1)`: an address that is not listed reads 0x00 (log entry 6). -/
def Memory.read (m : Memory) (a : Nat) : Byte :=
  match m with
  | [] => 0
  | c :: rest => if c.1 = a then c.2 else Memory.read rest a

/-- The bytes f 0 .. f (n-1) put before the cells of `rest`, in canonical form. -/
def Memory.fillBefore (f : Nat → Byte) (n : Nat) (rest : Memory) : Memory :=
  match n with
  | 0 => rest
  | k + 1 => Memory.fillBefore f k (if f k = 0 then rest else (k, f k) :: rest)

/-- `MemWrite(S:a, 1, f a)` for every a < n; the other bytes stay. -/
def Memory.fill (m : Memory) (n : Nat) (f : Nat → Byte) : Memory :=
  Memory.fillBefore f n (m.filter (fun c => n ≤ c.1))

/-- The bytes of an operand written from address 0 on. -/
def Memory.load (m : Memory) (bytes : List Byte) : Memory :=
  m.fill bytes.length (fun a => bytes.getD a 0)

/-! ## Loops -/

/-- `for i in 0..n-1`, ascending (`00_scope.md` R9). -/
def forEach (n : Nat) (f : Fin n → State → State) (s : State) : State :=
  (List.finRange n).foldl (fun t i => f i t) s

/-- The steps of a batch over the given roles, in that order. -/
def forRoles (rs : List Role) (f : Role → State → State) (s : State) : State :=
  rs.foldl (fun t r => f r t) s

/-! ## The Digital I/O Port -/

/-- The answer the k-th next port call will get: listed in `answers`, else free (log entry 2). -/
def State.answerAt (s : State) (k : Nat) : Answer :=
  match s.answers[k]? with
  | some a => a
  | none => Config.portAnswer (s.portCalls + k)

/-- The role a port call is about; a delay is about none. -/
def PortEvent.role? (e : PortEvent) : Option Role :=
  match e with
  | .acquire r => some r
  | .release r => some r
  | .setDirection r _ => some r
  | .write r _ => some r
  | .read r => some r
  | .delay _ => none

/-- The updates of LVL (`10_state.md` R13). -/
def levelsAfter (e : PortEvent) (a : Answer) (l : Pins Level) : Pins Level :=
  match e with
  | .acquire r => l.set r .unknown
  | .release r => l.set r .unknown
  | .setDirection r _ => l.set r .unknown
  | .write r v =>
    match a with
    | .ok => l.set r (Level.ofBool v)
    | .fail => l.set r .unknown
  | .read _ => l
  | .delay _ => l

/-- "Every port call on role r that answers `fail` sets `x[PFAIL][r] <- 1`" (`10_state.md` R16). -/
def pfailAfter (r : Role) (a : Answer) (p : BitVec 7) : BitVec 7 :=
  match a with
  | .ok => p
  | .fail => setRoleBit p r

/-- One port primitive of `00_scope.md` R9: the event goes to TRACE with its answer, LVL follows it
(`10_state.md` R13), a failure is accumulated in PFAIL (R16). `Delay(ms)` only goes to TRACE. -/
def issue (e : PortEvent) (s : State) : State :=
  match e.role? with
  | none => { s with trace := ⟨e, none⟩ :: s.trace }
  | some r =>
    { s with
      trace := ⟨e, some (s.answerAt 0)⟩ :: s.trace
      lvl := levelsAfter e (s.answerAt 0) s.lvl
      pfail := pfailAfter r (s.answerAt 0) s.pfail
      answers := s.answers.tail
      portCalls := s.portCalls + 1 }

/-- `pwrite(r, v)` (`00_scope.md` R9). -/
def pwrite (r : Role) (v : Bool) (s : State) : State := issue (.write r v) s

/-- `Delay(ms)` (`00_scope.md` R9). -/
def delay (ms : Nat) (s : State) : State := issue (.delay ms) s

/-- One call of the acquisition batch: `if Port.acquire(r) = ok then x[ACQ][r] <- 1 else x[PFAIL][r] <- 1`
(`41_sh1106_controller.md` R92). -/
def acquirePin (r : Role) (s : State) : State :=
  match s.answerAt 0 with
  | .ok => { issue (.acquire r) s with acq := setRoleBit s.acq r }
  | .fail => issue (.acquire r) s

/-- One call of the direction batch (`41_sh1106_controller.md` R93; D17). -/
def directPin (d : PinDir) (r : Role) (s : State) : State :=
  match s.answerAt 0 with
  | .ok => { issue (.setDirection r d) s with dir := s.dir.set r (some d) }
  | .fail => { issue (.setDirection r d) s with dir := s.dir.set r none }

/-- `Port.release(r)`, after which ACQ and DIR drop the pin whatever the answer
(`41_sh1106_controller.md` R101; D17). -/
def releasePin (r : Role) (s : State) : State :=
  { issue (.release r) s with acq := clearRoleBit s.acq r, dir := s.dir.set r none }

/-! ## The start and the end of a command -/

/-- `x[PFAIL] <- 0`, the first line of every command (`10_state.md` R16). -/
def beginCommand (s : State) : State := { s with pfail := 0#7 }

/-- The end of a command: its result word is written to LASTRES (`30_encoding.md` R70). -/
def finish (k : Option ErrorKind) (mask : BitVec 7) (s : State) : State :=
  { s with lastres := resultWord k mask s }

/-- `raise E(info)` (`60_exceptions.md` R128): the ONE operation by which a command ends with an error.
Nothing is saved and nothing rolled back; the result word is written and the block is idle. -/
def raise (k : ErrorKind) (mask : BitVec 7) (s : State) : State := finish (some k) mask s

/-- The last two lines of DRAWFRAME, DRAWTEXT and WRITEBYTE: a port failure of the command is reported
once, at its end (`60_exceptions.md` R122). -/
def endWithPortCheck (s : State) : State :=
  if s.pfail ≠ 0#7 then raise .pinAccessError s.pfail s else finish none 0#7 s

end Sys2Proof.Machine
end

