-- ==== Sys2Proof/Machine/Operands.lean ====
section
/-! DEFINITION. The parameters with a value (`00_scope.md` R6), every operand form, and the pure functions
of the converter (`42_page_converter.md`). -/

namespace Sys2Proof.Machine

/-! ## Parameters the spec gives a value (log entry 12) -/

/-- PREFLIP_PHASE = 0 (D1, C1). -/
def preflipPhase : Bool := false

/-- BL_ON = 1 (D8). -/
def blOn : Bool := true

/-- RST_SEQ = (0, 1, 0) (D9, C9). -/
def rstSeq : List Bool := [false, true, false]

/-- RESET_DELAY_MS = 200 (`41_sh1106_controller.md` R95). -/
def resetDelayMs : Nat := 200

/-- FRAME_W = 128 columns. -/
def frameW : Nat := 128

/-- FRAME_H = 64 rows. -/
def frameH : Nat := 64

/-- Number of payload bytes of a valid frame, and of bytes of PB. -/
def frameBytes : Nat := 1024

/-! ## Transport operands -/

/-- `pol = m[1]`, clockPolarityIdle (`30_encoding.md` R67). -/
def modePol (m : SpiMode) : Bool := m.getLsbD 1

/-- `pha = m[0]`, clockPhase (`30_encoding.md` R67). -/
def modePha (m : SpiMode) : Bool := m.getLsbD 0

/-- The mode operand: "0..3 are the four SpiMode values, anything else is invalid"
(`40_spi_transport.md` R80, R81). -/
def decodeMode (b : Byte) : Option SpiMode :=
  if b.toNat ≤ 3 then some (b.setWidth 2) else none

/-- The order operand: "0 = MSB_FIRST, 1 = LSB_FIRST; 2..255 are invalid" (`30_encoding.md` R68). -/
def decodeOrder (b : Byte) : Option BitOrder :=
  if b = 0 then some .msbFirst else if b = 1 then some .lsbFirst else none

/-- The bit the serializer sends next (`40_spi_transport.md` R82). -/
def outBit (o : BitOrder) (sr : Byte) : Bool :=
  match o with
  | .msbFirst => sr.getLsbD 7
  | .lsbFirst => sr.getLsbD 0

/-- The shift after a bit, at 8 bits, zeros entering (`40_spi_transport.md` R82, R83). -/
def shiftOut (o : BitOrder) (sr : Byte) : Byte :=
  match o with
  | .msbFirst => sr <<< 1
  | .lsbFirst => sr >>> 1

/-- The admission test of WRITEBYTE: the three SPI lines held and directed (`40_spi_transport.md` R88). -/
def spiLinesReady (s : State) : Bool :=
  roleBit s.acq .clk && roleBit s.acq .mosi && roleBit s.acq .miso &&
    decide (s.dir.clk = some .output) && decide (s.dir.mosi = some .output) &&
    decide (s.dir.miso = some .input)

/-! ## Frames -/

/-- The size check: "`if W != 128 or H != 64 or n - 3 != 1024`" refuses (`42_page_converter.md` R112). -/
def frameSizeOk (w h : Byte) (payload : List Byte) : Bool :=
  decide (w.toNat = frameW) && decide (h.toNat = frameH) && decide (payload.length = frameBytes)

/-- Pixel (row, col) of a frame buffer: linear index row*128 + col (`20_memory.md` R41), bit i % 8 of byte
i / 8 (`30_encoding.md` R64). -/
def pixel (fb : Memory) (row col : Nat) : Bool :=
  (fb.read ((row * 128 + col) / 8)).getLsbD ((row * 128 + col) % 8)

/-- The byte whose bit k is f k, bit 0 least significant. -/
def byteOfBits (f : Nat → Bool) : Byte :=
  BitVec.ofBool (f 7) ++ BitVec.ofBool (f 6) ++ BitVec.ofBool (f 5) ++ BitVec.ofBool (f 4) ++
    BitVec.ofBool (f 3) ++ BitVec.ofBool (f 2) ++ BitVec.ofBool (f 1) ++ BitVec.ofBool (f 0)

/-- The byte of page p, column x: bit k is pixel (8*p + k, x) (`42_page_converter.md` R110). -/
def pageByte (fb : Memory) (p x : Nat) : Byte :=
  byteOfBits (fun k => pixel fb (8 * p + k) x)

/-- `toPages()`: all 1024 bytes of PB from FB (`42_page_converter.md` R110). Irreducible only so that Lean's
elaborator does not unroll 1024 bytes when it compares two states. -/
@[irreducible] def toPages (fb pb : Memory) : Memory :=
  pb.fill frameBytes (fun a => pageByte fb (a / 128) (a % 128))

/-- Byte (p, x) of a page buffer (`20_memory.md` R42). -/
def pageRead (pb : Memory) (p x : Nat) : Byte := pb.read (p * 128 + x)

/-! ## Text -/

/-- `glyphIndex(c)`: `c - 0x20` for c in 0x20..0x7E, no entry for any other code
(`42_page_converter.md` R113). -/
def glyphIndex (c : Byte) : Option (Fin 95) :=
  if h : 0x20 ≤ c.toNat ∧ c.toNat ≤ 0x7E then some ⟨c.toNat - 0x20, by omega⟩ else none

/-- GLYPH[g]; GLYPH[0] is 0 (`42_page_converter.md` R113). -/
def glyphEntry (p : Params) (g : Fin 95) : GlyphWord :=
  match g with
  | ⟨0, _⟩ => 0
  | ⟨i + 1, h⟩ => p.glyphs[i]

/-- Column j of a glyph: `G[63 - 8*j : 56 - 8*j]` (`42_page_converter.md` R114). -/
def glyphColumn (g : GlyphWord) (j : Nat) : Byte := g.extractLsb' (56 - 8 * j) 8

/-- `if inv = 1 then v <- ~v` (`42_page_converter.md` R115). -/
def invertIf (inv : Bool) (v : Byte) : Byte := if inv then ~~~v else v

/-- The operand check of DRAWTEXT: reserved bits 000, row 0..7, every character in 0x20..0x7E
(`30_encoding.md` R65, `41_sh1106_controller.md` R100). -/
def textOperandsOk (rsv : BitVec 3) (row : BitVec 4) (line : List Byte) : Bool :=
  decide (rsv = 0) && decide (row.toNat ≤ 7) && line.all (fun c => (glyphIndex c).isSome)

/-- `0xB0 + p`, an 8-bit sum (`30_encoding.md` R71). -/
def setPageByte (p : BitVec 3) : Byte := 0xB0 + p.setWidth 8

/-- `0x02`, the low column nibble command (`30_encoding.md` R71). -/
def setColLoByte : Byte := 0x02

/-- `0x10`, the high column nibble command (`30_encoding.md` R71). -/
def setColHiByte : Byte := 0x10

end Sys2Proof.Machine
end

