-- ==== Sys2Proof/Machine/Transport.lean ====
section
/-! DEFINITION. The software SPI transport (`40_spi_transport.md`): the serializer and the host command
WRITEBYTE. -/

namespace Sys2Proof.Machine

/-- `x[CLKV] <- v; pwrite(CLK, x[CLKV])` (`40_spi_transport.md` R82). -/
def driveClock (v : Bool) (s : State) : State := pwrite .clk v { s with clkv := v }

/-- `x[CLKV] <- !x[CLKV]; pwrite(CLK, x[CLKV])`: a toggle is computed from CLKV, never from the pin
(`40_spi_transport.md` R82; D3). -/
def toggleClock (s : State) : State := driveClock (!s.clkv) s

/-- One bit slot: data first, edge 1, edge 2, shift (`40_spi_transport.md` R82). -/
def bitSlot (o : BitOrder) (i : Fin 8) (s : State) : State :=
  let s := pwrite .mosi (outBit o s.sr) { s with bitn := i }
  let s := toggleClock s
  let s := toggleClock s
  { s with sr := shiftOut o s.sr }

/-- `writeByte(byte, mode, order)` for a valid mode (`40_spi_transport.md` R82); its entry of WIRE is made
with DC's level at the start (`41_sh1106_controller.md` R104). -/
def writeByte (v : Byte) (m : SpiMode) (o : BitOrder) (s : State) : State :=
  let s := { s with wire := ⟨s.lvl.dc, v, m, o⟩ :: s.wire, sr := v }
  let s := driveClock (modePol m) s
  let s := if modePha m = preflipPhase then toggleClock s else s
  let s := forEach 8 (bitSlot o) s
  driveClock (modePol m) s

/-- `sendByte(v)`: `writeByte(v, CFG_MODE, CFG_ORDER)` (`41_sh1106_controller.md` R98). -/
def sendByte (v : Byte) (s : State) : State := writeByte v s.params.cfgMode s.params.cfgOrder s

/-- The body of WRITEBYTE after `x[PFAIL] <- 0` (`40_spi_transport.md` R88). -/
def writeByteCommand (data mode order : Byte) (s : State) : State :=
  if spiLinesReady s then
    match decodeMode mode, decodeOrder order with
    | some m, some o => endWithPortCheck (writeByte data m o s)
    | some _, none => raise .invalidArgument 0#7 s
    | none, _ => raise .invalidArgument 0#7 s
  else raise .sequenceViolation 0#7 s

/-- WRITEBYTE data, mode, order (`40_spi_transport.md` R88). -/
def execWritebyte (data mode order : Byte) (s : State) : Host.Outcome State Fault Refusal :=
  .next (writeByteCommand data mode order (beginCommand s))

end Sys2Proof.Machine
end

