-- ==== Sys2Proof/Machine/WireCommands.lean ====
section
/-! DEFINITION. The three wire command bytes the block sends to the display (`30_encoding.md` R71,
`41_sh1106_controller.md` R96): each is one `sendByte`. They are steps of `preamble`, which drives DC low
before them; no packet decodes to one (log entry 5). -/

namespace Sys2Proof.Machine

/-- SETPAGE p: `sendByte(0xB0 + p)`. -/
def sendSetPage (p : BitVec 3) (s : State) : State := sendByte (setPageByte p) s

/-- SETCOLLO: `sendByte(0x02)`. -/
def sendSetColLo (s : State) : State := sendByte setColLoByte s

/-- SETCOLHI: `sendByte(0x10)`. -/
def sendSetColHi (s : State) : State := sendByte setColHiByte s

/-- The wire command SETPAGE p. -/
def execSetpage (p : BitVec 3) (s : State) : Host.Outcome State Fault Refusal := .next (sendSetPage p s)

/-- The wire command SETCOLLO. -/
def execSetcollo (s : State) : Host.Outcome State Fault Refusal := .next (sendSetColLo s)

/-- The wire command SETCOLHI. -/
def execSetcolhi (s : State) : Host.Outcome State Fault Refusal := .next (sendSetColHi s)

/-- `preamble(p)`: DC low, the three addressing bytes, DC high (`41_sh1106_controller.md` R96). -/
def preamble (p : BitVec 3) (s : State) : State :=
  let s := pwrite .dc false s
  let s := sendSetPage p s
  let s := sendSetColLo s
  let s := sendSetColHi s
  pwrite .dc true s

end Sys2Proof.Machine
end

