-- ==== Sys2Proof/Machine/Draw.lean ====
section
/-! DEFINITION. DRAWFRAME and DRAWTEXT (`41_sh1106_controller.md` R99, R100). -/

namespace Sys2Proof.Machine

/-- "load FB from the payload" (`30_encoding.md` R64): eight pixels to a payload byte, as FB holds them
(log entry 8). -/
def loadFrame (payload : List Byte) (s : State) : State := { s with fb := Memory.load s.fb payload }

/-- `toPages()` into PB (`42_page_converter.md` R110). -/
def convertFrame (s : State) : State := { s with pb := toPages s.fb s.pb }

/-- One data byte of a page: `sendByte(MemRead(PB:(x[PAGE], x[COL]), 1))`. -/
def sendColumn (p : Fin 8) (x : Fin 128) (s : State) : State :=
  sendByte (pageRead s.pb p x) { s with col := x }

/-- One page: its preamble and its 128 column bytes (`41_sh1106_controller.md` R99). -/
def sendPage (p : Fin 8) (s : State) : State :=
  forEach 128 (sendColumn p) (preamble (BitVec.ofNat 3 p) { s with page := p })

/-- The body of DRAWFRAME after `x[PFAIL] <- 0` and the length check of its format
(`41_sh1106_controller.md` R99; `42_page_converter.md` R112). -/
def drawFrameCommand (w h : Byte) (payload : List Byte) (s : State) : State :=
  if s.life = .ready then
    if frameSizeOk w h payload then
      endWithPortCheck (forEach 8 sendPage (convertFrame (loadFrame payload s)))
    else raise .invalidArgument 0#7 s
  else raise .sequenceViolation 0#7 s

/-- DRAWFRAME W, H, payload (`41_sh1106_controller.md` R99). -/
def execDrawframe (w h : Byte) (payload : List Byte) (s : State) : Host.Outcome State Fault Refusal :=
  .next (drawFrameCommand w h payload (beginCommand s))

/-- "`MemWrite(TX:i, 1, b[2+i])`" (`30_encoding.md` R65), once the operand is accepted (log entry 10). -/
def loadText (line : List Byte) (s : State) : State := { s with tx := Memory.load s.tx line }

/-- One glyph column of character `chi`: the byte of `glyphColumns(MemRead(TX:x[CHI], 1))[x[GCOL]]`, inverted
when inv = 1 (`41_sh1106_controller.md` R100). The `none` branch is a code without a glyph, which the
operand check has refused before: no table entry is read and nothing is sent (log entry 17). -/
def sendGlyphColumn (inv : Bool) (i : Fin 16) (j : Fin 8) (s : State) : State :=
  match glyphIndex (Memory.read s.tx i) with
  | some g => sendByte (invertIf inv (glyphColumn (glyphEntry s.params g) j)) { s with gcol := j }
  | none => s

/-- One character: its eight columns, left to right. -/
def sendChar (inv : Bool) (i : Fin 16) (s : State) : State :=
  forEach 8 (sendGlyphColumn inv i) { s with chi := i }

/-- The body of DRAWTEXT after `x[PFAIL] <- 0` (`41_sh1106_controller.md` R100). -/
def drawTextCommand (inv : Bool) (rsv : BitVec 3) (row : BitVec 4) (line : List Byte) (s : State) : State :=
  if line.length ≠ 16 then raise .invalidArgument 0#7 s
  else if s.life = .ready then
    if textOperandsOk rsv row line then
      endWithPortCheck (forEach 16 (sendChar inv) (preamble (row.setWidth 3) (loadText line s)))
    else raise .invalidArgument 0#7 s
  else raise .sequenceViolation 0#7 s

/-- DRAWTEXT row, line, inv (`41_sh1106_controller.md` R100). -/
def execDrawtext (inv : Bool) (rsv : BitVec 3) (row : BitVec 4) (line : List Byte) (s : State) :
    Host.Outcome State Fault Refusal :=
  .next (drawTextCommand inv rsv row line (beginCommand s))

end Sys2Proof.Machine
end

