-- ==== Sys2Proof/Machine/PowerDown.lean ====
section
/-! DEFINITION. POWERDOWN (`41_sh1106_controller.md` R101) and the shutdown request that runs its body
(`60_exceptions.md` R125). -/

namespace Sys2Proof.Machine

/-- The lines POWERDOWN drives low, "in this order" (`41_sh1106_controller.md` R101). -/
def powerDownLines : List Role := [.rst, .dc, .bl]

/-- `if x[ACQ][r] = 1 then pwrite(r, 0)`. -/
def driveLowIfHeld (r : Role) (s : State) : State :=
  if roleBit s.acq r then pwrite r false s else s

/-- `if x[ACQ][r] = 1 then` release it and drop it. -/
def releaseIfHeld (r : Role) (s : State) : State :=
  if roleBit s.acq r then releasePin r s else s

/-- The body of POWERDOWN after `x[PFAIL] <- 0`, with its result `RESULT(Ok, x[PFAIL])`
(`41_sh1106_controller.md` R101). -/
def powerDownCommand (s : State) : State :=
  let s := forRoles powerDownLines driveLowIfHeld s
  let s := forRoles roleOrder releaseIfHeld s
  let s := { s with life := .shutDown, inited := false }
  finish none s.pfail s

/-- POWERDOWN, admitted in every state (`41_sh1106_controller.md` R101, R105). -/
def execPowerdown (s : State) : Host.Outcome State Fault Refusal :=
  .next (powerDownCommand (beginCommand s))

/-- TAKING THE SHUTDOWN REQUEST: SDREQ and PFAIL cleared, the body of POWERDOWN run, its result in LASTRES
(`60_exceptions.md` R125). -/
def takeShutdown (s : State) : State := powerDownCommand (beginCommand { s with sdreq := false })

end Sys2Proof.Machine
end

