-- ==== Sys2Proof/Machine/PowerUp.lean ====
section
/-! DEFINITION. POWERUP (`41_sh1106_controller.md` R91) and its five steps. -/

namespace Sys2Proof.Machine

/-- `acquireAll()`: all seven acquisitions, in role order, whatever the answers
(`41_sh1106_controller.md` R92). -/
def acquireAll (s : State) : State := forRoles roleOrder acquirePin s

/-- `d <- (if r = MISO then in else out)` (`41_sh1106_controller.md` R93). -/
def powerUpDir (r : Role) : PinDir :=
  match r with
  | .clk => .output
  | .mosi => .output
  | .miso => .input
  | .cs => .output
  | .dc => .output
  | .rst => .output
  | .bl => .output

/-- `directAll()`: all seven directions, in role order (`41_sh1106_controller.md` R93). -/
def directAll (s : State) : State := forRoles roleOrder (fun r => directPin (powerUpDir r) r) s

/-- `assertLines()`: backlight on, chip select active (`41_sh1106_controller.md` R94). -/
def assertLines (s : State) : State := pwrite .cs s.params.csActive (pwrite .bl blOn s)

/-- One phase of the display reset: the level, then the settle delay (`41_sh1106_controller.md` R95). -/
def resetPhase (s : State) (v : Bool) : State := delay resetDelayMs (pwrite .rst v s)

/-- `reset()`: DC low, then the levels of RST_SEQ, each followed by 200 ms
(`41_sh1106_controller.md` R95). -/
def displayReset (s : State) : State := rstSeq.foldl resetPhase (pwrite .dc false s)

/-- `initialize()`: the 25 bytes of INIT_SEQ, in order (`41_sh1106_controller.md` R97). -/
def initializeDisplay (s : State) : State :=
  forEach 25 (fun i t => sendByte t.params.initSeq[i] { t with initi := i }) s

/-- The last step of POWERUP: `initialize()`, then CommandInitialized with INITED, then at once Ready. -/
def powerUpInitialize (s : State) : State :=
  let s := initializeDisplay s
  if s.pfail ≠ 0#7 then raise .pinAccessError s.pfail s
  else
    let s := { s with life := .commandInitialized, inited := true }
    finish none 0#7 { s with life := .ready }

/-- From `reset()` on. -/
def powerUpReset (s : State) : State :=
  let s := displayReset s
  if s.pfail ≠ 0#7 then raise .pinAccessError s.pfail s
  else powerUpInitialize { s with life := .reset }

/-- From `assertLines()` on. -/
def powerUpAssert (s : State) : State :=
  let s := assertLines s
  if s.pfail ≠ 0#7 then raise .pinAccessError s.pfail s else powerUpReset s

/-- From `directAll()` on. -/
def powerUpDirect (s : State) : State :=
  let s := directAll s
  if s.pfail ≠ 0#7 then raise .pinAccessError s.pfail s else powerUpAssert s

/-- The body of POWERUP after `x[PFAIL] <- 0` (`41_sh1106_controller.md` R91): each step runs whole, and the
chain stops at the first step boundary at which PFAIL is not 0. -/
def powerUpCommand (s : State) : State :=
  if s.life = .uninitialized then
    let s := acquireAll s
    if s.pfail ≠ 0#7 then raise .pinUnavailable s.pfail s
    else powerUpDirect { s with life := .pinsAcquired }
  else raise .sequenceViolation 0#7 s

/-- POWERUP (`41_sh1106_controller.md` R91). -/
def execPowerup (s : State) : Host.Outcome State Fault Refusal :=
  .next (powerUpCommand (beginCommand s))

end Sys2Proof.Machine
end

