-- ==== Sys2Proof/Machine/Dispatch.lean ====
section
/-! DEFINITION. The one dispatch: each instruction to its meaning. -/

namespace Sys2Proof.Machine

def exec (i : Instr) (s : State) : Host.Outcome State Fault Refusal :=
  match i with
  | .powerup => Sys2Proof.Machine.execPowerup s
  | .powerdown => Sys2Proof.Machine.execPowerdown s
  | .drawframe w h payload => Sys2Proof.Machine.execDrawframe w h payload s
  | .drawtext inv rsv row line => Sys2Proof.Machine.execDrawtext inv rsv row line s
  | .writebyte data mode order => Sys2Proof.Machine.execWritebyte data mode order s
  | .setpage p => Sys2Proof.Machine.execSetpage p s
  | .setcollo => Sys2Proof.Machine.execSetcollo s
  | .setcolhi => Sys2Proof.Machine.execSetcolhi s

end Sys2Proof.Machine
end

