-- ==== Sys2Proof/Machine/HostPort.lean ====
section
/-! DEFINITION. The command port of the idle block: what it does next, and the inputs that are no command
(`30_encoding.md` R60, `60_exceptions.md` R125, `70_reset_and_hazards.md` R140, R152). -/

namespace Sys2Proof.Machine

/-- What the idle block does next; `rest` is the inbox after it. -/
inductive Action where
  | hardwareReset (rest : List Input)
  | raiseRequest (rest : List Input)
  | takeShutdown
  | packet (bytes : List Byte) (rest : List Input)
  | stayIdle (rest : List Input)
  deriving DecidableEq, Repr

/-- Arbitration (log entry 3): a hardware reset comes before everything; a shutdown request is recorded in
SDREQ when it arrives; a recorded request is taken before a waiting packet (`60_exceptions.md` R125); with
nothing to do the block stays idle (`70_reset_and_hazards.md` R152). -/
def nextAction (sdreq : Bool) (inbox : List Input) : Action :=
  match inbox with
  | .hardReset :: rest => .hardwareReset rest
  | .shutdown :: rest => .raiseRequest rest
  | .packet b :: rest => if sdreq then .takeShutdown else .packet b rest
  | .idle :: rest => if sdreq then .takeShutdown else .stayIdle rest
  | [] => if sdreq then .takeShutdown else .stayIdle []

/-- The inbox after an input has been taken. -/
def withInbox (rest : List Input) (s : State) : State := { s with inbox := rest }

/-- The shutdown source "sets SDREQ to 1" (`60_exceptions.md` R125). -/
def raiseRequest (s : State) : State := { s with sdreq := true }

/-- Hardware reset: every piece of the block's state at its reset value, no port event, the parameters as
injected (`70_reset_and_hazards.md` R140, `10_state.md` R28). What is outside the block stays (log entry 14). -/
def hardwareReset (s : State) : State :=
  { State.reset with
    params := s.params, inbox := s.inbox, answers := s.answers, portCalls := s.portCalls }

/-- A malformed packet, empty, of an unknown opcode or of a wrong length, "raises InvalidArgument, issues no
port call and changes no state but LASTRES" (`30_encoding.md` R69, D30). It fails at decoding, the first stage
of `60_exceptions.md` R127, so no command starts and PFAIL is kept (log entry 9). -/
def rejectMalformed (s : State) : State := raise .invalidArgument 0#7 s

end Sys2Proof.Machine
end

