-- ==== Sys2Proof/Machine/Step.lean ====
section
/-! DEFINITION. One step of the machine: one decision of the idle block, a whole command when it takes a
packet (`30_encoding.md` R60; D28). -/

namespace Sys2Proof.Machine

/-- The block takes a packet: a well-formed one is executed, a malformed one rejected. -/
def runPacket (b : List Byte) (s : State) : Host.Outcome State Fault Refusal :=
  match decode b with
  | .ok i => exec i s
  | .error _ => .next (rejectMalformed s)

/-- One step. -/
def step (s : State) : Host.Outcome State Fault Refusal :=
  match nextAction s.sdreq s.inbox with
  | .hardwareReset rest => .next (hardwareReset (withInbox rest s))
  | .raiseRequest rest => .next (raiseRequest (withInbox rest s))
  | .takeShutdown => .next (takeShutdown s)
  | .packet b rest => runPacket b (withInbox rest s)
  | .stayIdle rest => .next (withInbox rest s)

/-- s with the packet whose bits are w as the next thing the host sends, and no request pending, so that
the very next step takes it (log entry 13). -/
def State.withFetchWord (s : State) (nbits w : Nat) : State :=
  { s with inbox := .packet (packetOfWord nbits w) :: s.inbox, sdreq := false }

end Sys2Proof.Machine
end

