-- ==== Sys2Proof/Safety.lean ====
section
/-! DEFINITION. The vocabulary of the claims: the observation, the port events the spec's rules list for each
operation, what it is for the port to answer ok, the invariants, and what counts as a clean run. -/

namespace Sys2Proof

open Sys2Proof.Machine

/-! ## The observation (`00_scope.md` R8) -/

/-- TRACE in issue order (`10_state.md` R24). -/
def Machine.State.events (s : State) : List Entry := s.trace.reverse

/-- WIRE in order (`41_sh1106_controller.md` R104). -/
def Machine.State.wireLog (s : State) : List WireEntry := s.wire.reverse

/-- The next n port calls all answer ok. -/
def Machine.State.PortOk (s : State) (n : Nat) : Prop := ∀ k < n, s.answerAt k = .ok

/-- The entries TRACE gets for the events `es` when they are issued next, `k` port calls from now: each
call with the answer the port gives it, a delay with none. -/
def answered (s : State) (k : Nat) (es : List PortEvent) : List Entry :=
  match es with
  | [] => []
  | e :: rest =>
    match e.role? with
    | none => ⟨e, none⟩ :: answered s k rest
    | some _ => ⟨e, some (s.answerAt k)⟩ :: answered s (k + 1) rest

/-- An event answered ok; a delay has no answer. -/
def okEntry (e : PortEvent) : Entry := ⟨e, e.role?.map (fun _ => Answer.ok)⟩

/-- Some call on role r among these entries failed. -/
def failedOn (r : Role) (es : List Entry) : Bool :=
  es.any (fun x => decide (x.event.role? = some r) && decide (x.answer = some .fail))

/-- The levels written to pin r by these entries, in order. -/
def writtenLevels (r : Role) (es : List Entry) : List Bool :=
  es.filterMap (fun x => match x.event with | .write q v => if q = r then some v else none | _ => none)

/-- How many of the levels differ from the one before, the first from `v`. -/
def levelChanges (v : Bool) (ls : List Bool) : Nat :=
  match ls with
  | [] => 0
  | l :: rest => (if l = v then 0 else 1) + levelChanges l rest

/-! ## The events of the operations, as the rules list them -/

/-- The eight bits of a byte in the order they are sent (`40_spi_transport.md` R83). -/
def bitsInOrder (o : BitOrder) (v : Byte) : List Bool :=
  match o with
  | .msbFirst =>
    [v.getLsbD 7, v.getLsbD 6, v.getLsbD 5, v.getLsbD 4, v.getLsbD 3, v.getLsbD 2, v.getLsbD 1, v.getLsbD 0]
  | .lsbFirst =>
    [v.getLsbD 0, v.getLsbD 1, v.getLsbD 2, v.getLsbD 3, v.getLsbD 4, v.getLsbD 5, v.getLsbD 6, v.getLsbD 7]

/-- The mode makes the pre-flip: its phase is PREFLIP_PHASE (`40_spi_transport.md` R82). -/
def preflips (m : SpiMode) : Bool := decide (modePha m = preflipPhase)

/-- The clock's level between two bit slots: `pol`, or `!pol` after a pre-flip (`40_spi_transport.md` R84). -/
def slotLevel (m : SpiMode) : Bool := if preflips m then !(modePol m) else modePol m

/-- The three events of one bit: data, edge 1, edge 2 (`40_spi_transport.md` R82). -/
def slotEvents (m : SpiMode) (b : Bool) : List PortEvent :=
  [.write .mosi b, .write .clk (!(slotLevel m)), .write .clk (slotLevel m)]

/-- The events of one `writeByte` (`40_spi_transport.md` R82). -/
def byteEvents (v : Byte) (m : SpiMode) (o : BitOrder) : List PortEvent :=
  [.write .clk (modePol m)] ++ (if preflips m then [.write .clk (!(modePol m))] else []) ++
    (bitsInOrder o v).flatMap (slotEvents m) ++ [.write .clk (modePol m)]

/-- B, the number of port events of one byte (`41_sh1106_controller.md`, head). -/
def eventsPerByte (m : SpiMode) : Nat := if preflips m then 27 else 26

/-- The events of `sendByte` (`41_sh1106_controller.md` R98). -/
def sessionByteEvents (p : Params) (v : Byte) : List PortEvent := byteEvents v p.cfgMode p.cfgOrder

/-- The three addressing bytes of a page (`41_sh1106_controller.md` R96). -/
def addressBytes (p : BitVec 3) : List Byte := [0xB0 + p.setWidth 8, 0x02, 0x10]

/-- The events of `preamble(pg)` (`41_sh1106_controller.md` R96). -/
def preambleEvents (p : Params) (pg : BitVec 3) : List PortEvent :=
  [.write .dc false] ++ (addressBytes pg).flatMap (sessionByteEvents p) ++ [.write .dc true]

/-- The events of a page: its preamble, then its data bytes (`41_sh1106_controller.md` R99). -/
def pageEvents (p : Params) (pg : BitVec 3) (data : List Byte) : List PortEvent :=
  preambleEvents p pg ++ data.flatMap (sessionByteEvents p)

/-- Bit i of a frame's payload (`30_encoding.md` R64). -/
def payloadBit (payload : List Byte) (i : Nat) : Bool := (payload.getD (i / 8) 0).getLsbD (i % 8)

/-- The 128 column bytes of page p of the frame a payload holds: bit k of column x is pixel
(8p+k, x) (`30_encoding.md` R64, `42_page_converter.md` R110). -/
def framePage (payload : List Byte) (p : Nat) : List Byte :=
  (List.range 128).map (fun x => byteOfBits (fun k => payloadBit payload ((8 * p + k) * 128 + x)))

/-- The events of a DRAWFRAME (`41_sh1106_controller.md` R99). -/
def frameEvents (p : Params) (payload : List Byte) : List PortEvent :=
  (List.range 8).flatMap (fun pg => pageEvents p (BitVec.ofNat 3 pg) (framePage payload pg))

/-- The eight bytes of a character, inverted or not; none for a code without a glyph
(`42_page_converter.md` R113 to R115). -/
def charBytes (p : Params) (inv : Bool) (c : Byte) : List Byte :=
  match glyphIndex c with
  | some g => (List.range 8).map (fun j => invertIf inv (glyphColumn (glyphEntry p g) j))
  | none => []

/-- The 128 data bytes of a text line (`41_sh1106_controller.md` R100). -/
def lineBytes (p : Params) (inv : Bool) (line : List Byte) : List Byte := line.flatMap (charBytes p inv)

/-- The events of a DRAWTEXT (`41_sh1106_controller.md` R100). -/
def textEvents (p : Params) (inv : Bool) (row : BitVec 4) (line : List Byte) : List PortEvent :=
  pageEvents p (row.setWidth 3) (lineBytes p inv line)

/-- `A(r)` for the seven roles (`41_sh1106_controller.md` R92). -/
def acquireEvents : List PortEvent :=
  [.acquire .clk, .acquire .mosi, .acquire .miso, .acquire .cs, .acquire .dc, .acquire .rst, .acquire .bl]

/-- `D(r,d)` for the seven roles (`41_sh1106_controller.md` R93). -/
def directEvents : List PortEvent :=
  [.setDirection .clk .output, .setDirection .mosi .output, .setDirection .miso .input,
    .setDirection .cs .output, .setDirection .dc .output, .setDirection .rst .output,
    .setDirection .bl .output]

/-- `assertLines()` (`41_sh1106_controller.md` R94). -/
def assertEvents (p : Params) : List PortEvent := [.write .bl true, .write .cs p.csActive]

/-- `reset()` (`41_sh1106_controller.md` R95). -/
def resetEvents : List PortEvent :=
  [.write .dc false, .write .rst false, .delay 200, .write .rst true, .delay 200, .write .rst false, .delay 200]

/-- `initialize()` (`41_sh1106_controller.md` R97). -/
def initEvents (p : Params) : List PortEvent := p.initSeq.toList.flatMap (sessionByteEvents p)

/-- The events of a POWERUP in which no step stops the chain (`41_sh1106_controller.md` R91). -/
def powerUpEvents (p : Params) : List PortEvent :=
  acquireEvents ++ directEvents ++ assertEvents p ++ resetEvents ++ initEvents p

/-- The directions a session's pins have (`10_state.md` R11). -/
def sessionDir : Pins (Option PinDir) :=
  ⟨some .output, some .output, some .input, some .output, some .output, some .output, some .output⟩

/-- The events of a POWERDOWN: RST, DC, BL low, then every pin released, those held only
(`41_sh1106_controller.md` R101). -/
def powerDownEvents (acq : BitVec 7) : List PortEvent :=
  ([Role.rst, Role.dc, Role.bl].filter (roleBit acq)).map (fun r => .write r false) ++
    (roleOrder.filter (roleBit acq)).map .release

/-- The length rule of each packet format (`30_encoding.md` R62 to R66, R69). -/
def packetWellFormed (b : List Byte) : Bool :=
  match b with
  | [] => false
  | op :: _ =>
    if op = 0x01 then b.length == 1
    else if op = 0x02 then b.length == 1
    else if op = 0x03 then decide (3 ≤ b.length)
    else if op = 0x04 then b.length == 18
    else if op = 0x05 then b.length == 4
    else false

/-- The state after a malformed packet: the result word, nothing else (`30_encoding.md` R69). -/
def rejectedMalformed (s : State) : State := { s with lastres := resultWord (some .invalidArgument) 0#7 s }

/-- The state after a refused command: PFAIL cleared and the result word, nothing else
(`60_exceptions.md` R123, R124). -/
def refusedWith (k : ErrorKind) (s : State) : State :=
  { s with pfail := 0#7, lastres := resultWord (some k) 0#7 s }

/-- "All three SPI lines already acquired and set to correct direction": WRITEBYTE's admission test
(`40_spi_transport.md` R88). -/
def SpiLinesHeld (s : State) : Prop :=
  roleBit s.acq .clk = true ∧ roleBit s.acq .mosi = true ∧ roleBit s.acq .miso = true ∧
    s.dir.clk = some .output ∧ s.dir.mosi = some .output ∧ s.dir.miso = some .input

/-- The valid operands of DRAWFRAME (`42_page_converter.md` R112). -/
def FrameOperandsValid (w h : Byte) (payload : List Byte) : Prop :=
  w = 128#8 ∧ h = 64#8 ∧ payload.length = 1024

/-- The valid operands of DRAWTEXT (`30_encoding.md` R65). -/
def TextOperandsValid (rsv : BitVec 3) (row : BitVec 4) (line : List Byte) : Prop :=
  rsv = 0#3 ∧ row.toNat ≤ 7 ∧ ∀ c ∈ line, 0x20 ≤ c.toNat ∧ c.toNat ≤ 0x7E

/-- Where a POWERUP stops whose first failing port call is call k of it (calls counted from 0): how many
events it has issued, the state LIFE rests in, and the error (`41_sh1106_controller.md` R91): calls 0..6
acquire, 7..13 direct, 14 and 15 assert the lines, 16..19 are the writes of `reset()`, the rest send the
initialization bytes. -/
def powerUpStop (p : Params) (k : Nat) : Nat × Life × ErrorKind :=
  if k < 7 then (7, .uninitialized, .pinUnavailable)
  else if k < 14 then (14, .pinsAcquired, .pinAccessError)
  else if k < 16 then (16, .pinsAcquired, .pinAccessError)
  else if k < 20 then (23, .pinsAcquired, .pinAccessError)
  else ((powerUpEvents p).length, .reset, .pinAccessError)

/-- The inverse of `toPages` (`42_page_converter.md` R111): pixel (row, col) is bit row % 8 of byte
(row / 8, col). No operation of the block; it states a law. -/
def fromPages (pb : Memory) : Memory :=
  Memory.fill [] frameBytes
    (fun a => byteOfBits (fun k => (pageRead pb (a / 16 / 8) (a % 16 * 8 + k)).getLsbD (a / 16 % 8)))

/-! ## The wire as a receiver sees it (`40_spi_transport.md` R89) -/

/-- The data levels a receiver latches that samples at every change of the clock to `edge`, with the levels
of CLK and MOSI before the events. It reads the levels ASKED FOR and drops the port's answers: a write counts as
a level on the wire also where it failed, although after a failed clock write "the pulse may or may not have
happened" (`70_reset_and_hazards.md` R142, U14). DESIGN CHOICE, log entry 21. -/
def sampled (edge : Bool) (clk mosi : Bool) (es : List PortEvent) : List Bool :=
  match es with
  | [] => []
  | .write .mosi b :: rest => sampled edge clk b rest
  | .write .clk v :: rest =>
    if v = edge ∧ clk ≠ edge then mosi :: sampled edge v mosi rest else sampled edge v mosi rest
  | _ :: rest => sampled edge clk mosi rest

/-! ## Registers as functions of TRACE -/

/-- LVL after the entries, given it before (`10_state.md` R13). -/
def replayLevels (l : Pins Level) (es : List Entry) : Pins Level :=
  es.foldl (fun l x => match x.answer with | some a => levelsAfter x.event a l | none => l) l

/-- ACQ after one entry: an acquisition answered ok sets it, a release clears it
(`41_sh1106_controller.md` R92, R101). -/
def heldAfter (x : Entry) (acq : BitVec 7) : BitVec 7 :=
  match x.event with
  | .acquire r => if x.answer = some .ok then setRoleBit acq r else acq
  | .release r => clearRoleBit acq r
  | .setDirection _ _ => acq
  | .write _ _ => acq
  | .read _ => acq
  | .delay _ => acq

/-- DIR after one entry (`41_sh1106_controller.md` R93, R101). -/
def dirAfter (x : Entry) (dir : Pins (Option PinDir)) : Pins (Option PinDir) :=
  match x.event with
  | .setDirection r d => if x.answer = some .ok then dir.set r (some d) else dir.set r none
  | .release r => dir.set r none
  | .acquire _ => dir
  | .write _ _ => dir
  | .read _ => dir
  | .delay _ => dir

/-- LVL, ACQ and DIR are what TRACE says (`10_state.md` R12, R13), and every event has an answer but a
delay. -/
structure FollowsTrace (s : State) : Prop where
  lvl : s.lvl = replayLevels (Pins.all .unknown) s.events
  acq : s.acq = s.events.foldl (fun b x => heldAfter x b) 0#7
  dir : s.dir = s.events.foldl (fun d x => dirAfter x d) (Pins.all none)
  answered : ∀ x ∈ s.trace, x.answer = none ↔ x.event.role? = none

/-- No entry is a read (`40_spi_transport.md` R87). -/
def NeverReads (s : State) : Prop := ∀ x ∈ s.trace, ∀ r, x.event ≠ .read r

/-- Every entry that writes, directs or releases a pin comes at a moment at which TRACE before it says that
the block holds the pin; the newest entry is first. -/
def TouchesHeldOnly (trace : List Entry) : Prop :=
  match trace with
  | [] => True
  | x :: older =>
    TouchesHeldOnly older ∧
      ∀ r, (∃ v, x.event = .write r v) ∨ (∃ d, x.event = .setDirection r d) ∨ x.event = .release r →
        roleBit (older.foldr heldAfter 0#7) r = true

/-- What holds of LIFE, INITED, ACQ and DIR whenever the block is idle (`10_state.md` R14, R15,
`41_sh1106_controller.md` R90, R91, R101, R105). -/
structure LifecycleInv (s : State) : Prop where
  inited_iff : s.inited = true ↔ (s.life = .commandInitialized ∨ s.life = .ready)
  not_transient : s.life ≠ .commandInitialized
  undirected : s.life = .uninitialized → s.dir = Pins.all none
  acquired : s.life = .pinsAcquired ∨ s.life = .reset ∨ s.life = .ready → s.acq = 0x7F#7
  directed : s.life = .reset ∨ s.life = .ready → s.dir = sessionDir
  released : s.life = .shutDown → s.acq = 0#7 ∧ s.dir = Pins.all none

/-- The byte memories keep their canonical form and list no address outside their space
(`20_memory.md` R40). -/
structure MemoryInv (s : State) : Prop where
  pb_wf : s.pb.wf
  fb_wf : s.fb.wf
  tx_wf : s.tx.wf
  pb_bound : ∀ c ∈ s.pb, c.1 < 1024
  fb_bound : ∀ c ∈ s.fb, c.1 < 1024
  tx_bound : ∀ c ∈ s.tx, c.1 < 16

/-- LASTRES is a result word: bits 31:22 are 0 and at most one kind bit is set (`30_encoding.md` R70). -/
def ResultInv (s : State) : Prop :=
  s.lastres.extractLsb' 22 10 = 0#10 ∧
    s.lastres.extractLsb' 0 4 ∈ [0x0#4, 0x1#4, 0x2#4, 0x4#4, 0x8#4]

/-- "A run is clean when its last state has LIFE = ShutDown and ACQ = 0" (`70_reset_and_hazards.md` R152). -/
def Machine.State.Clean (s : State) : Prop := s.life = .shutDown ∧ s.acq = 0#7

/-- LIFE may go from one value to the other in one step (`41_sh1106_controller.md` R90; a POWERUP that stops
at a step boundary rests in PinsAcquired or Reset, R91). -/
def lifeMayGo (a b : Life) : Bool :=
  match a, b with
  | .uninitialized, .commandInitialized => false
  | .uninitialized, _ => true
  | _, .shutDown => true
  | x, y => decide (x = y)

end Sys2Proof
end

