-- ==== Sys2Proof/Certificates/Slice0/Obligations.lean ====
section
/-! DEFINITION. The statements for the provers, one `def Obligations.<Name> : Prop` each. -/

open Sys2Proof Sys2Proof.Machine

/-! ## Encoding -/

/-- Decoding, in the instruction's own space, the encoding of a well-formed instruction gives it back, every
operand at every value (`30_encoding.md` R62 to R66, R71). -/
def Obligations.DecodeOfEncode : Prop :=
  ∀ i : Instr, i.WellFormed → decodeIn i.space (encode i) = some i

/-- A packet that decodes is the encoding of what it decodes to, a well-formed host command and never a wire
command byte (`30_encoding.md` R61; opcode_table.json: "never decoded by the block"). -/
def Obligations.DecodedPacketReencodes : Prop :=
  ∀ (b : List Byte) (i : Instr), decode b = .ok i → i.WellFormed ∧ i.space = .host ∧ encode i = b

/-- A packet decodes exactly when it meets the length rule of its opcode (`30_encoding.md` R62 to R66, R69,
R75). -/
def Obligations.PacketDecodesIffWellFormed : Prop :=
  ∀ b : List Byte, (decode b).toOption.isSome = packetWellFormed b

/-- Words of every format written out from the encoding tables (`30_encoding.md` R62 to R66, R71). -/
def Obligations.SpecWordsDecode : Prop :=
  decodeIn .host [0x01] = some .powerup ∧
  decodeIn .host [0x02] = some .powerdown ∧
  decodeIn .host [0x03, 0x80, 0x40, 0x01, 0xFE] = some (.drawframe 0x80 0x40 [0x01, 0xFE]) ∧
  decodeIn .host
      [0x04, 0x82, 0x41, 0x21, 0x20, 0x7E, 0x20, 0x20, 0x20, 0x20, 0x20, 0x20, 0x20, 0x20, 0x20, 0x20, 0x20, 0x20] =
    some (.drawtext true 0 2
      [0x41, 0x21, 0x20, 0x7E, 0x20, 0x20, 0x20, 0x20, 0x20, 0x20, 0x20, 0x20, 0x20, 0x20, 0x20, 0x20]) ∧
  decodeIn .host [0x05, 0xB3, 0x03, 0x00] = some (.writebyte 0xB3 0x03 0x00) ∧
  decodeIn .host [0xB3] = none ∧
  decodeIn .wire [0xB3] = some (.setpage 3) ∧
  decodeIn .wire [0x02] = some .setcollo ∧
  decodeIn .wire [0x10] = some .setcolhi

/-! ## The step -/

/-- When no request is pending and the packet at the head of the inbox decodes to i, the step is exec of i
at the state with that packet taken (`30_encoding.md` R60). -/
def Obligations.StepRunsDecodedPacket : Prop :=
  ∀ (s : State) (b : List Byte) (rest : List Input) (i : Instr),
    s.sdreq = false → s.inbox = .packet b :: rest → decode b = .ok i →
      step s = exec i { s with inbox := rest }

/-- A malformed packet, empty, of an unknown opcode or of a wrong length, gives InvalidArgument, issues no port
call and changes no state but LASTRES (`30_encoding.md` R69; `60_exceptions.md` R127). That this holds of PFAIL
too, against the 'cleared' of R123, is log entry 9. -/
def Obligations.MalformedPacketIsRejected : Prop :=
  ∀ (s : State) (b : List Byte) (rest : List Input),
    s.sdreq = false → s.inbox = .packet b :: rest → packetWellFormed b = false →
      step s = .next (rejectedMalformed { s with inbox := rest })

/-- A pending shutdown request is taken before a waiting packet, whatever the packet: SDREQ is cleared, the
body of POWERDOWN runs, its result stands in LASTRES and the packet still waits. It is taken after that, in
ShutDown: every command but POWERDOWN is refused with SequenceViolation and issues nothing, a POWERDOWN issues
no event and gives 0x00002800, a malformed packet is rejected (`30_encoding.md` R69; `60_exceptions.md` R125, R127;
`41_sh1106_controller.md` R101, R105). That a refusal clears PFAIL and a rejected packet keeps it is log
entry 9. -/
def Obligations.ShutdownRequestWinsOverPacket : Prop :=
  ∀ (s : State) (b : List Byte) (rest : List Input), s.sdreq = true → s.inbox = .packet b :: rest →
    ∃ t, step s = .next t ∧ exec .powerdown { s with sdreq := false } = .next t ∧ t.sdreq = false ∧
      t.inbox = .packet b :: rest ∧ t.life = .shutDown ∧
      (∀ i, decode b = .ok i → i ≠ .powerdown →
        step t = .next (refusedWith .sequenceViolation { t with inbox := rest })) ∧
      (decode b = .ok .powerdown →
        step t = .next { t with inbox := rest, pfail := 0#7, lastres := 0x00002800#32 }) ∧
      (packetWellFormed b = false → step t = .next (rejectedMalformed { t with inbox := rest }))

/-- A pending request with no packet waiting is taken as well (`60_exceptions.md` R125). -/
def Obligations.ShutdownRequestTakenWhenIdle : Prop :=
  ∀ s : State, s.sdreq = true → (s.inbox = [] ∨ ∃ rest, s.inbox = .idle :: rest) →
    step s = exec .powerdown { s with sdreq := false }

/-- The inputs that are no packet: a request sets SDREQ and nothing else, also one that comes while another
is pending; with nothing to do the block stays as it is. The order of the inbox is the model's (log entry 3). -/
def Obligations.RequestArrivalAndIdling : Prop :=
  (∀ (s : State) (rest : List Input), s.inbox = .shutdown :: rest →
      step s = .next { s with inbox := rest, sdreq := true }) ∧
  (∀ (s : State) (rest : List Input), s.sdreq = false → s.inbox = .idle :: rest →
      step s = .next { s with inbox := rest }) ∧
  (∀ s : State, s.sdreq = false → s.inbox = [] → step s = .next s)

/-- A hardware reset puts LIFE, INITED, ACQ, DIR, LVL, SDREQ, PFAIL, LASTRES, TRACE and WIRE at their reset
values from any state, also with a request pending, keeps the parameters and issues no event
(`70_reset_and_hazards.md` R140, `10_state.md` R28).
Where the reset stands in the inbox, and that later inputs wait, is the model's (log entries 3 and 14). -/
def Obligations.HardwareResetFromAnyState : Prop :=
  ∀ (s : State) (rest : List Input), s.inbox = .hardReset :: rest →
    ∃ t, step s = .next t ∧ t.life = .uninitialized ∧ t.inited = false ∧ t.acq = 0#7 ∧
      t.dir = Pins.all none ∧ t.lvl = Pins.all .unknown ∧ t.sdreq = false ∧ t.pfail = 0#7 ∧
      t.lastres = 0#32 ∧ t.events = [] ∧ t.wireLog = [] ∧ t.params = s.params ∧ t.inbox = rest

/-- The values the spec gives the reset state (`10_state.md` R28). -/
def Obligations.ResetStateHasSpecValues : Prop :=
  State.reset.life = .uninitialized ∧ State.reset.inited = false ∧ State.reset.acq = 0#7 ∧
    (∀ r, State.reset.dir.get r = none) ∧ (∀ r, State.reset.lvl.get r = .unknown) ∧
    State.reset.sdreq = false ∧ State.reset.pfail = 0#7 ∧ State.reset.lastres = 0x00000000#32 ∧
    State.reset.events = [] ∧ State.reset.wireLog = []

/-- No step stops: every state has a next one (`60_exceptions.md` R128, `70_reset_and_hazards.md` R151,
R152). -/
def Obligations.EveryStepCompletes : Prop := ∀ s : State, ∃ t, step s = .next t

/-! ## The result word and the role registers -/

/-- Every field of the result word (`30_encoding.md` R70), the code of each error kind (`60_exceptions.md`
R120) and of each value of LIFE (`10_state.md` R14) by value. -/
def Obligations.ResultWordFields : Prop :=
  ∀ (k : Option ErrorKind) (mask : BitVec 7) (s : State),
    (resultWord k mask s).extractLsb' 0 4 =
      (match k with
        | none => 0x0#4
        | some .pinUnavailable => 0x1#4
        | some .pinAccessError => 0x2#4
        | some .invalidArgument => 0x4#4
        | some .sequenceViolation => 0x8#4) ∧
    (resultWord k mask s).extractLsb' 4 7 = mask ∧
    (resultWord k mask s).extractLsb' 11 3 =
      (match s.life with
        | .uninitialized => 0#3
        | .pinsAcquired => 1#3
        | .reset => 2#3
        | .commandInitialized => 3#3
        | .ready => 4#3
        | .shutDown => 5#3) ∧
    (resultWord k mask s).extractLsb' 14 7 = s.acq ∧
    (resultWord k mask s).getLsbD 21 = s.inited ∧
    (resultWord k mask s).extractLsb' 22 10 = 0#10

/-! ## WRITEBYTE -/

/-- WRITEBYTE with the three SPI lines held and directed and valid operands sends its byte: the events of the
algorithm whatever the port answers, one entry of WIRE, SR and CLKV as the algorithm leaves them, PFAIL
exactly the roles a call failed on, and the result Ok or PinAccessError with that mask
(`40_spi_transport.md` R82, R86, R88; `60_exceptions.md` R122). -/
def Obligations.WriteByteSendsItsByte : Prop :=
  ∀ (data mode order : Byte) (o : BitOrder) (s : State),
    SpiLinesHeld s → mode.toNat ≤ 3 → (order = 0 ∧ o = .msbFirst ∨ order = 1 ∧ o = .lsbFirst) →
      ∃ t, exec (.writebyte data mode order) s = .next t ∧
        t.events = s.events ++ answered s 0 (byteEvents data (mode.setWidth 2) o) ∧
        t.lvl = replayLevels s.lvl (answered s 0 (byteEvents data (mode.setWidth 2) o)) ∧
        t.wireLog = s.wireLog ++ [⟨s.lvl.dc, data, mode.setWidth 2, o⟩] ∧
        t.sr = 0#8 ∧ t.clkv = modePol (mode.setWidth 2) ∧
        (∀ r, roleBit t.pfail r = failedOn r (answered s 0 (byteEvents data (mode.setWidth 2) o))) ∧
        t.lastres = resultWord (if t.pfail = 0#7 then none else some .pinAccessError) t.pfail t

/-- WRITEBYTE is refused with SequenceViolation when the SPI lines are not held and directed, whatever its
operands; then with InvalidArgument when mode or order is out of range (`40_spi_transport.md` R81, R88;
`60_exceptions.md` R127). -/
def Obligations.WriteByteRefusals : Prop :=
  ∀ (data mode order : Byte) (s : State),
    (¬SpiLinesHeld s → exec (.writebyte data mode order) s = .next (refusedWith .sequenceViolation s)) ∧
    (SpiLinesHeld s → 3 < mode.toNat ∨ 1 < order.toNat →
      exec (.writebyte data mode order) s = .next (refusedWith .invalidArgument s))

/-- The data writes of a WRITEBYTE carry the bits in the order asked for, 0x00 gives eight zeros and 0xFF
eight ones, SR ends at 0x00, and the clock events do not depend on the byte; the shift after a bit is at 8 bits
and a 0 enters (`40_spi_transport.md` R83). -/
def Obligations.DataBitsInOrder : Prop :=
  (∀ sr : Byte, shiftOut .msbFirst sr = sr.extractLsb' 0 7 ++ 0#1 ∧
    shiftOut .lsbFirst sr = 0#1 ++ sr.extractLsb' 1 7) ∧
  ∀ (data other mode order : Byte) (s : State),
    SpiLinesHeld s → mode.toNat ≤ 3 → order.toNat ≤ 1 →
      ∃ t t' new new', exec (.writebyte data mode order) s = .next t ∧ t.events = s.events ++ new ∧
        exec (.writebyte other mode order) s = .next t' ∧ t'.events = s.events ++ new' ∧
        writtenLevels .mosi new =
          (if order = 0 then
            [data.getLsbD 7, data.getLsbD 6, data.getLsbD 5, data.getLsbD 4, data.getLsbD 3, data.getLsbD 2,
              data.getLsbD 1, data.getLsbD 0]
          else
            [data.getLsbD 0, data.getLsbD 1, data.getLsbD 2, data.getLsbD 3, data.getLsbD 4, data.getLsbD 5,
              data.getLsbD 6, data.getLsbD 7]) ∧
        t.sr = 0x00#8 ∧
        (data = 0x00#8 → writtenLevels .mosi new = List.replicate 8 false) ∧
        (data = 0xFF#8 → writtenLevels .mosi new = List.replicate 8 true) ∧
        writtenLevels .clk new = writtenLevels .clk new'

/-- Event and transition counts of a WRITEBYTE: 26 events in modes 1 and 3, 27 in modes 0 and 2, every one a
write of MOSI (8 of them) or of CLK; the clock levels written; 16 or 18 level changes from a clock at idle,
one more from a clock that is not (`40_spi_transport.md` R84). -/
def Obligations.ByteEventAndTransitionCounts : Prop :=
  ∀ (data mode order : Byte) (s : State),
    SpiLinesHeld s → mode.toNat ≤ 3 → order.toNat ≤ 1 →
      ∃ t new, exec (.writebyte data mode order) s = .next t ∧ t.events = s.events ++ new ∧
        new.length = (if mode = 1 ∨ mode = 3 then 26 else 27) ∧
        (∀ x ∈ new, ∃ v, x.event = .write .mosi v ∨ x.event = .write .clk v) ∧
        (writtenLevels .mosi new).length = 8 ∧
        writtenLevels .clk new =
          (if mode = 1 ∨ mode = 3 then
            [mode.getLsbD 1] ++ (List.replicate 8 [!(mode.getLsbD 1), mode.getLsbD 1]).flatten ++ [mode.getLsbD 1]
          else
            [mode.getLsbD 1, !(mode.getLsbD 1)] ++
              (List.replicate 8 [mode.getLsbD 1, !(mode.getLsbD 1)]).flatten ++ [mode.getLsbD 1]) ∧
        levelChanges (mode.getLsbD 1) (writtenLevels .clk new) = (if mode = 1 ∨ mode = 3 then 16 else 18) ∧
        levelChanges (!(mode.getLsbD 1)) (writtenLevels .clk new) = (if mode = 1 ∨ mode = 3 then 17 else 19)

/-- A WRITEBYTE in which no clock write failed ends with the clock at the idle level of its mode, and, when
no data write failed either, with MOSI at the last bit sent (`40_spi_transport.md` R85; that a failed write
leaves U is `10_state.md` R13). -/
def Obligations.ClockEndsAtIdleLevel : Prop :=
  ∀ (data mode order : Byte) (s : State),
    SpiLinesHeld s → mode.toNat ≤ 3 → order.toNat ≤ 1 →
      ∃ t new, exec (.writebyte data mode order) s = .next t ∧ t.events = s.events ++ new ∧
        t.clkv = mode.getLsbD 1 ∧
        (failedOn .clk new = false → t.lvl.clk = Level.ofBool (mode.getLsbD 1)) ∧
        (failedOn .mosi new = false →
          t.lvl.mosi = Level.ofBool (if order = 0 then data.getLsbD 0 else data.getLsbD 7))

/-- The wire as a receiver sees it that starts with the clock at the idle level of the mode. In modes 1 and 3
it reads the eight bits of the byte, in the order they are sent, on either edge, from 8 pulses. In modes 0 and 2
there are 9 pulses: on the edge from active back to idle it reads the eight bits and then the last bit a second
time, on the leading edge the stale bit of MOSI and then the eight bits (`40_spi_transport.md` R89; a clock that
starts elsewhere makes one more edge, `70_reset_and_hazards.md` R147).
The receiver reads the levels the block asks for. Where a write of CLK or MOSI failed, whether that level came
about is open (R142, `93_implementation_defined.md` U14), and reading it as if it had is the model's choice (log
entry 21): this is no claim about what a display then shows. -/
def Obligations.ReceiverReadsEightBits : Prop :=
  ∀ (data mode order : Byte) (o : BitOrder) (mosi : Bool) (s : State),
    SpiLinesHeld s → mode.toNat ≤ 3 → (order = 0 ∧ o = .msbFirst ∨ order = 1 ∧ o = .lsbFirst) →
      ∃ t new, exec (.writebyte data mode order) s = .next t ∧ t.events = s.events ++ new ∧
        (mode = 1 ∨ mode = 3 → ∀ edge,
          sampled edge (mode.getLsbD 1) mosi (new.map Entry.event) = bitsInOrder o data) ∧
        (mode = 0 ∨ mode = 2 →
          sampled (mode.getLsbD 1) (mode.getLsbD 1) mosi (new.map Entry.event) =
            bitsInOrder o data ++ [if order = 0 then data.getLsbD 0 else data.getLsbD 7] ∧
          sampled (!(mode.getLsbD 1)) (mode.getLsbD 1) mosi (new.map Entry.event) =
            mosi :: bitsInOrder o data)

/-- What a WRITEBYTE leaves: everything but PFAIL, LASTRES, the levels of CLK and MOSI, the serializer's
registers, TRACE and WIRE. -/
def Obligations.WriteByteFrame : Prop :=
  ∀ (data mode order : Byte) (s t : State), exec (.writebyte data mode order) s = .next t →
    t.life = s.life ∧ t.inited = s.inited ∧ t.acq = s.acq ∧ t.dir = s.dir ∧ t.sdreq = s.sdreq ∧
    (∀ r, r ≠ .clk → r ≠ .mosi → t.lvl.get r = s.lvl.get r) ∧
    t.page = s.page ∧ t.col = s.col ∧ t.initi = s.initi ∧ t.chi = s.chi ∧ t.gcol = s.gcol ∧
    (∀ a, Memory.read t.pb a = Memory.read s.pb a) ∧ (∀ a, Memory.read t.fb a = Memory.read s.fb a) ∧
    (∀ a, Memory.read t.tx a = Memory.read s.tx a) ∧ t.params = s.params ∧ t.inbox = s.inbox

/-! ## POWERUP -/

/-- POWERUP in Uninitialized with a port that answers ok to its 20 + 25 B calls brings the block to Ready:
the events in the order of the contract, 23 + 25 B of them, the 25 initialization bytes on the wire with DC
low, all pins held and directed, the lines as the host is owed them, and the result word Ok
(`41_sh1106_controller.md` R91 to R97; `60_exceptions.md` R138; `70_reset_and_hazards.md` R141). -/
def Obligations.PowerUpReachesReady : Prop :=
  ∀ s : State, s.life = .uninitialized → s.PortOk (20 + 25 * eventsPerByte s.params.cfgMode) →
    ∃ t, exec .powerup s = .next t ∧
      t.events = s.events ++ (powerUpEvents s.params).map okEntry ∧
      t.trace.length = s.trace.length + (23 + 25 * eventsPerByte s.params.cfgMode) ∧
      t.wireLog = s.wireLog ++
        s.params.initSeq.toList.map (fun v => ⟨.low, v, s.params.cfgMode, s.params.cfgOrder⟩) ∧
      t.life = .ready ∧ t.inited = true ∧ t.acq = 0x7F#7 ∧ t.dir = sessionDir ∧ t.pfail = 0#7 ∧
      t.lastres = 0x003FE000#32 ∧
      t.lvl.clk = Level.ofBool (modePol s.params.cfgMode) ∧ t.lvl.miso = .unknown ∧
      t.lvl.cs = Level.ofBool s.params.csActive ∧ t.lvl.dc = .low ∧ t.lvl.rst = .low ∧ t.lvl.bl = .high

/-- A POWERUP in which a port call fails runs the step the call is in to its end and stops there: the events
issued, LIFE, INITED and the result by the first failing call k, FAILMASK exactly the roles a call failed on
(`41_sh1106_controller.md` R91; `60_exceptions.md` R121, R122, R128). -/
def Obligations.PowerUpStopsAtStepBoundary : Prop :=
  ∀ (s : State) (k : Nat),
    s.life = .uninitialized → s.PortOk k → s.answerAt k = .fail →
    k < 20 + 25 * eventsPerByte s.params.cfgMode →
      ∃ t, exec .powerup s = .next t ∧
        t.events = s.events ++
          answered s 0 ((powerUpEvents s.params).take (powerUpStop s.params k).1) ∧
        t.life = (powerUpStop s.params k).2.1 ∧ t.inited = s.inited ∧ t.pfail ≠ 0#7 ∧
        (∀ r, roleBit t.pfail r =
          failedOn r (answered s 0 ((powerUpEvents s.params).take (powerUpStop s.params k).1))) ∧
        t.lastres = resultWord (some (powerUpStop s.params k).2.2) t.pfail t

/-- A POWERUP in which an acquisition fails: all seven acquisitions and nothing else, ACQ gains exactly the
roles that answered ok, DIR and WIRE as before, LIFE still Uninitialized, PinUnavailable naming the failed
roles (`41_sh1106_controller.md` R92, `60_exceptions.md` R121). -/
def Obligations.FailedAcquisitionKeepsPartialPins : Prop :=
  ∀ s : State, s.life = .uninitialized → (∃ k, k < 7 ∧ s.answerAt k = .fail) →
    ∃ t, exec .powerup s = .next t ∧ t.events = s.events ++ answered s 0 acquireEvents ∧
      (∀ r, roleBit t.acq r = (roleBit s.acq r || decide (s.answerAt r.index = .ok))) ∧
      (∀ r, roleBit t.pfail r = decide (s.answerAt r.index = .fail)) ∧
      t.dir = s.dir ∧ t.wire = s.wire ∧ t.life = .uninitialized ∧ t.inited = s.inited ∧
      t.lastres = resultWord (some .pinUnavailable) t.pfail t

/-- A POWERUP in which a direction call fails: all seven acquisitions and all seven directions, DIR `none` for
the failed roles and the asked direction for the others, LIFE PinsAcquired, every pin held
(`41_sh1106_controller.md` R93, R91). -/
def Obligations.FailedDirectionRestsInPinsAcquired : Prop :=
  ∀ s : State, s.life = .uninitialized → s.PortOk 7 → (∃ k, 7 ≤ k ∧ k < 14 ∧ s.answerAt k = .fail) →
    ∃ t, exec .powerup s = .next t ∧ t.events = s.events ++ answered s 0 (acquireEvents ++ directEvents) ∧
      t.acq = 0x7F#7 ∧
      (∀ r, t.dir.get r = if s.answerAt (7 + r.index) = .ok then sessionDir.get r else none) ∧
      (∀ r, roleBit t.pfail r = decide (s.answerAt (7 + r.index) = .fail)) ∧
      (∀ r, t.lvl.get r = .unknown) ∧
      t.wire = s.wire ∧ t.life = .pinsAcquired ∧ t.inited = s.inited ∧
      t.lastres = resultWord (some .pinAccessError) t.pfail t

/-- POWERUP outside Uninitialized is refused with SequenceViolation (`41_sh1106_controller.md` R91, R105). -/
def Obligations.PowerUpOnlyInUninitialized : Prop :=
  ∀ s : State, s.life ≠ .uninitialized → exec .powerup s = .next (refusedWith .sequenceViolation s)

/-- What a POWERUP leaves: SDREQ, the counters of the draws, the memories, the parameters, the inbox. -/
def Obligations.PowerUpFrame : Prop :=
  ∀ s t : State, exec .powerup s = .next t →
    t.sdreq = s.sdreq ∧ t.page = s.page ∧ t.col = s.col ∧ t.chi = s.chi ∧ t.gcol = s.gcol ∧
    (∀ a, Memory.read t.pb a = Memory.read s.pb a) ∧ (∀ a, Memory.read t.fb a = Memory.read s.fb a) ∧
    (∀ a, Memory.read t.tx a = Memory.read s.tx a) ∧ t.params = s.params ∧ t.inbox = s.inbox

/-! ## POWERDOWN -/

/-- POWERDOWN, in every state and whatever the port answers: RST, DC, BL driven low and every pin released,
those held only and in that order; nothing held afterwards, the direction of every held pin dropped, LIFE
ShutDown, INITED 0, kind bits Ok, FAILMASK the roles a call failed on (`41_sh1106_controller.md` R101,
`60_exceptions.md` R130). -/
def Obligations.PowerDownAlwaysCompletes : Prop :=
  ∀ s : State, ∃ t, exec .powerdown s = .next t ∧
    t.events = s.events ++ answered s 0 (powerDownEvents s.acq) ∧
    t.lvl = replayLevels s.lvl (answered s 0 (powerDownEvents s.acq)) ∧
    t.Clean ∧ t.inited = false ∧
    (∀ r, t.dir.get r = if roleBit s.acq r = true then none else s.dir.get r) ∧
    (∀ r, roleBit t.pfail r = failedOn r (answered s 0 (powerDownEvents s.acq))) ∧
    t.lastres = resultWord none t.pfail t

/-- A second POWERDOWN issues no event and gives 0x00002800 (`41_sh1106_controller.md` R101). -/
def Obligations.PowerDownIsIdempotent : Prop :=
  ∀ s t : State, exec .powerdown s = .next t →
    exec .powerdown t = .next { t with pfail := 0#7, lastres := 0x00002800#32 }

/-- What a POWERDOWN leaves: SDREQ, the serializer's registers, the counters, the memories, WIRE, the levels of
the pins it does not hold, the parameters, the inbox. -/
def Obligations.PowerDownFrame : Prop :=
  ∀ s t : State, exec .powerdown s = .next t →
    t.sdreq = s.sdreq ∧ t.sr = s.sr ∧ t.clkv = s.clkv ∧ t.bitn = s.bitn ∧ t.page = s.page ∧ t.col = s.col ∧
    t.initi = s.initi ∧ t.chi = s.chi ∧ t.gcol = s.gcol ∧ t.wire = s.wire ∧
    (∀ r, roleBit s.acq r = false → t.lvl.get r = s.lvl.get r) ∧
    (∀ a, Memory.read t.pb a = Memory.read s.pb a) ∧ (∀ a, Memory.read t.fb a = Memory.read s.fb a) ∧
    (∀ a, Memory.read t.tx a = Memory.read s.tx a) ∧ t.params = s.params ∧ t.inbox = s.inbox

/-! ## DRAWFRAME and the converter -/

/-- DRAWFRAME in Ready with valid operands sends the whole frame whatever the port answers: for each page the
preamble and 128 column bytes whose bits are the payload's pixels, 16 + 1048 B events, 1048 bytes, FB and PB
as loaded and converted, PFAIL exactly the roles a call failed on, Ok or PinAccessError at the end
(`41_sh1106_controller.md` R99, R96; `42_page_converter.md` R110; `60_exceptions.md` R122).
That FB still holds the payload after the command is the model's (log entry 7). -/
def Obligations.DrawFrameSendsWholeFrame : Prop :=
  ∀ (w h : Byte) (payload : List Byte) (s : State),
    s.life = .ready → FrameOperandsValid w h payload →
      ∃ t, exec (.drawframe w h payload) s = .next t ∧
        t.events = s.events ++ answered s 0 (frameEvents s.params payload) ∧
        t.trace.length = s.trace.length + (16 + 1048 * eventsPerByte s.params.cfgMode) ∧
        t.wireLog.map WireEntry.byte = s.wireLog.map WireEntry.byte ++
          (List.range 8).flatMap (fun p => addressBytes (BitVec.ofNat 3 p) ++ framePage payload p) ∧
        (∀ row col, row < 64 → col < 128 → pixel t.fb row col = payloadBit payload (row * 128 + col)) ∧
        (∀ p x k, p < 8 → x < 128 → k < 8 →
          (pageRead t.pb p x).getLsbD k = payloadBit payload ((8 * p + k) * 128 + x)) ∧
        (∀ r, roleBit t.pfail r = failedOn r (answered s 0 (frameEvents s.params payload))) ∧
        t.lastres = resultWord (if t.pfail = 0#7 then none else some .pinAccessError) t.pfail t

/-- With a port that answers ok, WIRE gets for each page three entries with DC low and 128 with DC high, DC is
left high, the clock at its idle level, and the result is Ok (`41_sh1106_controller.md` R99, R103, R104;
`60_exceptions.md` R138). -/
def Obligations.DrawFrameWireEntries : Prop :=
  ∀ (w h : Byte) (payload : List Byte) (s : State),
    s.life = .ready → FrameOperandsValid w h payload → s.PortOk (frameEvents s.params payload).length →
      ∃ t, exec (.drawframe w h payload) s = .next t ∧
        t.wireLog = s.wireLog ++ (List.range 8).flatMap (fun p =>
          (addressBytes (BitVec.ofNat 3 p)).map
            (fun v => ⟨Level.low, v, s.params.cfgMode, s.params.cfgOrder⟩) ++
          (framePage payload p).map (fun v => ⟨Level.high, v, s.params.cfgMode, s.params.cfgOrder⟩)) ∧
        t.lvl.dc = .high ∧ t.lvl.clk = Level.ofBool (modePol s.params.cfgMode) ∧ t.pfail = 0#7 ∧
        t.lastres = resultWord none 0#7 t

/-- DRAWFRAME is refused with SequenceViolation outside Ready whatever its operands, and in Ready with
InvalidArgument when width, height or payload length is wrong; nothing is sent
and nothing changes but PFAIL (cleared, log entry 9) and LASTRES; that FB is not loaded then is log entry 10
(`41_sh1106_controller.md` R99, R105; `42_page_converter.md` R112; `60_exceptions.md` R123, R124, R127). -/
def Obligations.DrawFrameRefusals : Prop :=
  ∀ (w h : Byte) (payload : List Byte) (s : State),
    (s.life ≠ .ready → exec (.drawframe w h payload) s = .next (refusedWith .sequenceViolation s)) ∧
    (s.life = .ready → ¬FrameOperandsValid w h payload →
      exec (.drawframe w h payload) s = .next (refusedWith .invalidArgument s))

/-- What a DRAWFRAME leaves: LIFE, INITED, ACQ, DIR, SDREQ, the levels of MISO, CS, RST and BL, the counters
it does not use, TX, every byte of FB and PB outside their 1024, the parameters, the inbox. -/
def Obligations.DrawFrameFrame : Prop :=
  ∀ (w h : Byte) (payload : List Byte) (s t : State), exec (.drawframe w h payload) s = .next t →
    t.life = s.life ∧ t.inited = s.inited ∧ t.acq = s.acq ∧ t.dir = s.dir ∧ t.sdreq = s.sdreq ∧
    t.lvl.miso = s.lvl.miso ∧ t.lvl.cs = s.lvl.cs ∧ t.lvl.rst = s.lvl.rst ∧ t.lvl.bl = s.lvl.bl ∧
    t.initi = s.initi ∧ t.chi = s.chi ∧ t.gcol = s.gcol ∧
    (∀ a, 1024 ≤ a → Memory.read t.pb a = Memory.read s.pb a) ∧
    (∀ a, 1024 ≤ a → Memory.read t.fb a = Memory.read s.fb a) ∧
    (∀ a, Memory.read t.tx a = Memory.read s.tx a) ∧ t.params = s.params ∧ t.inbox = s.inbox

/-- Bit k of byte (p, x) of the converted frame is pixel (8p + k, x); pixel (row, col) is bit row % 8 of byte
(row / 8, col) (`42_page_converter.md` R110). -/
def Obligations.ToPagesTransposes : Prop :=
  ∀ fb pb : Memory,
    (∀ p x k, p < 8 → x < 128 → k < 8 → (pageRead (toPages fb pb) p x).getLsbD k = pixel fb (8 * p + k) x) ∧
    (∀ row col, row < 64 → col < 128 →
      pixel fb row col = (pageRead (toPages fb pb) (row / 8) col).getLsbD (row % 8))

/-- `fromPages` takes pixel (row, col) from bit row % 8 of byte (row / 8, col), and the round trip holds:
`fromPages (toPages f) = f` for every frame, and `toPages (fromPages pb) = pb` for every
page buffer (`42_page_converter.md` R111). -/
def Obligations.PagesRoundTrip : Prop :=
  (∀ (pb : Memory) (row col : Nat), row < 64 → col < 128 →
    pixel (fromPages pb) row col = (pageRead pb (row / 8) col).getLsbD (row % 8)) ∧
  (∀ fb : Memory, fb.wf → (∀ c ∈ fb, c.1 < 1024) → fromPages (toPages fb []) = fb) ∧
  (∀ pb : Memory, pb.wf → (∀ c ∈ pb, c.1 < 1024) → toPages (fromPages pb) [] = pb)

/-! ## DRAWTEXT and the glyphs -/

/-- DRAWTEXT in Ready with valid operands sends one whole page whatever the port answers: the preamble of its
row and the 128 glyph bytes, 2 + 131 B events, TX loaded, PFAIL exactly the roles a call failed on, Ok or
PinAccessError at the end (`41_sh1106_controller.md` R100; `42_page_converter.md` R113 to R115).
That TX still holds the characters after the command is the model's (log entry 7). -/
def Obligations.DrawTextSendsOnePage : Prop :=
  ∀ (inv : Bool) (rsv : BitVec 3) (row : BitVec 4) (line : List Byte) (s : State),
    s.life = .ready → line.length = 16 → TextOperandsValid rsv row line →
      ∃ t, exec (.drawtext inv rsv row line) s = .next t ∧
        t.events = s.events ++ answered s 0 (textEvents s.params inv row line) ∧
        t.trace.length = s.trace.length + (2 + 131 * eventsPerByte s.params.cfgMode) ∧
        t.wireLog.map WireEntry.byte = s.wireLog.map WireEntry.byte ++
          (addressBytes (row.setWidth 3) ++ lineBytes s.params inv line) ∧
        (∀ i, i < 16 → Memory.read t.tx i = line.getD i 0) ∧
        (∀ r, roleBit t.pfail r = failedOn r (answered s 0 (textEvents s.params inv row line))) ∧
        t.lastres = resultWord (if t.pfail = 0#7 then none else some .pinAccessError) t.pfail t

/-- With a port that answers ok, WIRE gets three entries with DC low and 128 with DC high, DC is left high, the
clock at its idle level, and the result is Ok (`41_sh1106_controller.md` R100, R103, R104;
`60_exceptions.md` R138). -/
def Obligations.DrawTextWireEntries : Prop :=
  ∀ (inv : Bool) (rsv : BitVec 3) (row : BitVec 4) (line : List Byte) (s : State),
    s.life = .ready → line.length = 16 → TextOperandsValid rsv row line →
    s.PortOk (textEvents s.params inv row line).length →
      ∃ t, exec (.drawtext inv rsv row line) s = .next t ∧
        t.wireLog = s.wireLog ++
          ((addressBytes (row.setWidth 3)).map
            (fun v => ⟨Level.low, v, s.params.cfgMode, s.params.cfgOrder⟩) ++
          (lineBytes s.params inv line).map (fun v => ⟨Level.high, v, s.params.cfgMode, s.params.cfgOrder⟩)) ∧
        t.lvl.dc = .high ∧ t.lvl.clk = Level.ofBool (modePol s.params.cfgMode) ∧ t.pfail = 0#7 ∧
        t.lastres = resultWord none 0#7 t

/-- A DRAWTEXT with a line that is not 16 characters is malformed; otherwise it is refused with
SequenceViolation outside Ready whatever its operands, and in Ready with InvalidArgument for reserved bits,
a row above 7 or one character without a glyph; nothing is sent, and nothing changes but PFAIL (cleared, log
entry 9) and LASTRES (`41_sh1106_controller.md` R100, R105; `60_exceptions.md` R123, R124, R127).
That TX is not loaded before a bad operand is refused is log entry 10 (DEDUCED from R123: the check of R100
reads TX). What `exec` does with an ill-formed line, which no packet decodes to, is log entry 19. -/
def Obligations.DrawTextRefusals : Prop :=
  ∀ (inv : Bool) (rsv : BitVec 3) (row : BitVec 4) (line : List Byte) (s : State),
    (line.length ≠ 16 → exec (.drawtext inv rsv row line) s = .next (refusedWith .invalidArgument s)) ∧
    (line.length = 16 → s.life ≠ .ready →
      exec (.drawtext inv rsv row line) s = .next (refusedWith .sequenceViolation s)) ∧
    (line.length = 16 → s.life = .ready → ¬TextOperandsValid rsv row line →
      exec (.drawtext inv rsv row line) s = .next (refusedWith .invalidArgument s))

/-- The inverted call sends the same three addressing bytes and, byte for byte, the complement of the 128 data
bytes of the call that is not inverted (`42_page_converter.md` R115, `41_sh1106_controller.md` R100). -/
def Obligations.InvertedTextIsComplement : Prop :=
  ∀ (row : BitVec 4) (line : List Byte) (s : State),
    s.life = .ready → line.length = 16 → TextOperandsValid 0#3 row line →
      ∃ t t' data, exec (.drawtext false 0#3 row line) s = .next t ∧
        exec (.drawtext true 0#3 row line) s = .next t' ∧ data.length = 128 ∧
        t.wireLog.map WireEntry.byte =
          s.wireLog.map WireEntry.byte ++ (addressBytes (row.setWidth 3) ++ data) ∧
        t'.wireLog.map WireEntry.byte =
          s.wireLog.map WireEntry.byte ++ (addressBytes (row.setWidth 3) ++ data.map (fun v => v ^^^ 0xFF#8))

/-- Glyph lookup: an index for 0x20..0x7E and for no other code, `c - 0x20`, and the space is all zero in every
injected table (`42_page_converter.md` R113). -/
def Obligations.GlyphLookup : Prop :=
  (∀ c : Byte, ((glyphIndex c).isSome = true ↔ 0x20 ≤ c.toNat ∧ c.toNat ≤ 0x7E)) ∧
  (∀ (c : Byte) (g : Fin 95), glyphIndex c = some g → g.val = c.toNat - 0x20) ∧
  (∀ p : Params, glyphEntry p 0 = 0#64)

/-- The eight columns, leftmost first, are the bytes of the pattern, most significant first
(`42_page_converter.md` R114, `20_memory.md` R43). -/
def Obligations.GlyphColumnsSplitPattern : Prop :=
  ∀ g : GlyphWord,
    glyphColumn g 0 ++ glyphColumn g 1 ++ glyphColumn g 2 ++ glyphColumn g 3 ++ glyphColumn g 4 ++
      glyphColumn g 5 ++ glyphColumn g 6 ++ glyphColumn g 7 = g

/-- What a DRAWTEXT leaves: LIFE, INITED, ACQ, DIR, SDREQ, the levels of MISO, CS, RST and BL, the counters it
does not use, FB, PB, every byte of TX outside its 16 (all of it when the line is not 16 characters), the
parameters, the inbox. -/
def Obligations.DrawTextFrame : Prop :=
  ∀ (inv : Bool) (rsv : BitVec 3) (row : BitVec 4) (line : List Byte) (s t : State),
    exec (.drawtext inv rsv row line) s = .next t →
      t.life = s.life ∧ t.inited = s.inited ∧ t.acq = s.acq ∧ t.dir = s.dir ∧ t.sdreq = s.sdreq ∧
      t.lvl.miso = s.lvl.miso ∧ t.lvl.cs = s.lvl.cs ∧ t.lvl.rst = s.lvl.rst ∧ t.lvl.bl = s.lvl.bl ∧
      t.page = s.page ∧ t.col = s.col ∧ t.initi = s.initi ∧
      (∀ a, Memory.read t.pb a = Memory.read s.pb a) ∧ (∀ a, Memory.read t.fb a = Memory.read s.fb a) ∧
      (∀ a, 16 ≤ a ∨ line.length ≠ 16 → Memory.read t.tx a = Memory.read s.tx a) ∧
      t.params = s.params ∧ t.inbox = s.inbox

/-! ## The wire command bytes and the preamble -/

/-- SETPAGE p, SETCOLLO and SETCOLHI each send their one byte, 0xB0 + p, 0x02, 0x10, in the session's mode and
order, whatever the port answers, and report its failures in PFAIL on top of those of the command they are
part of (the bytes and the sending: `30_encoding.md` R71, `41_sh1106_controller.md` R96, R98).
That `exec` runs such a row alone, in any state, with no admission test and no clearing of PFAIL, is the
model's (log entry 5, DEDUCED): the spec runs them inside `preamble` only. -/
def Obligations.WireCommandsSendOneByte : Prop :=
  ∀ (i : Instr) (v : Byte) (s : State),
    ((∃ p : BitVec 3, i = .setpage p ∧ v = 0xB0#8 + p.setWidth 8) ∨ (i = .setcollo ∧ v = 0x02#8) ∨
      (i = .setcolhi ∧ v = 0x10#8)) →
      ∃ t, exec i s = .next t ∧
        t.events = s.events ++ answered s 0 (byteEvents v s.params.cfgMode s.params.cfgOrder) ∧
        t.lvl = replayLevels s.lvl (answered s 0 (byteEvents v s.params.cfgMode s.params.cfgOrder)) ∧
        t.wireLog = s.wireLog ++ [⟨s.lvl.dc, v, s.params.cfgMode, s.params.cfgOrder⟩] ∧
        (∀ r, roleBit t.pfail r = (roleBit s.pfail r ||
          failedOn r (answered s 0 (byteEvents v s.params.cfgMode s.params.cfgOrder))))

/-- What SETPAGE, SETCOLLO and SETCOLHI leave: everything but PFAIL, the levels of CLK and MOSI, the
serializer's registers, TRACE and WIRE (`41_sh1106_controller.md` R98). That they are no commands of the host
and leave LASTRES is the model's (log entry 5, DEDUCED). -/
def Obligations.WireCommandFrame : Prop :=
  ∀ (i : Instr) (s t : State), i.space = .wire → exec i s = .next t →
    t.life = s.life ∧ t.inited = s.inited ∧ t.acq = s.acq ∧ t.dir = s.dir ∧ t.sdreq = s.sdreq ∧
    t.lastres = s.lastres ∧ (∀ r, r ≠ .clk → r ≠ .mosi → t.lvl.get r = s.lvl.get r) ∧
    t.page = s.page ∧ t.col = s.col ∧ t.initi = s.initi ∧ t.chi = s.chi ∧ t.gcol = s.gcol ∧
    (∀ a, Memory.read t.pb a = Memory.read s.pb a) ∧ (∀ a, Memory.read t.fb a = Memory.read s.fb a) ∧
    (∀ a, Memory.read t.tx a = Memory.read s.tx a) ∧ t.params = s.params ∧ t.inbox = s.inbox

/-- `preamble(p)`: DC low, the three addressing bytes, DC high, 2 + 3 B events; DC is 1 after it unless its
last write, port call 1 + 3 B, failed, and CS and RST are not touched (`41_sh1106_controller.md` R96). -/
def Obligations.PreambleAddressesPage : Prop :=
  ∀ (p : BitVec 3) (s : State),
    (preamble p s).events = s.events ++ answered s 0
      ([.write .dc false] ++ byteEvents (0xB0#8 + p.setWidth 8) s.params.cfgMode s.params.cfgOrder ++
        byteEvents 0x02#8 s.params.cfgMode s.params.cfgOrder ++
        byteEvents 0x10#8 s.params.cfgMode s.params.cfgOrder ++ [.write .dc true]) ∧
    (preamble p s).trace.length = s.trace.length + (2 + 3 * eventsPerByte s.params.cfgMode) ∧
    (s.answerAt (1 + 3 * eventsPerByte s.params.cfgMode) = .ok → (preamble p s).lvl.dc = .high) ∧
    (preamble p s).lvl.cs = s.lvl.cs ∧ (preamble p s).lvl.rst = s.lvl.rst

/-! ## The whole machine -/

/-- The invariants hold after hardware reset (`10_state.md` R28; that the memories list nothing then is the
model's, log entries 6 and 8). -/
def Obligations.InvariantsAtReset : Prop :=
  LifecycleInv State.reset ∧ FollowsTrace State.reset ∧ NeverReads State.reset ∧
    TouchesHeldOnly State.reset.trace ∧ MemoryInv State.reset ∧ ResultInv State.reset

/-- Every step keeps what the lifecycle says of INITED, ACQ and DIR (`10_state.md` R14, R15;
`41_sh1106_controller.md` R90, R91, R101, R105). -/
def Obligations.StepKeepsLifecycle : Prop :=
  ∀ s t : State, LifecycleInv s → step s = .next t → LifecycleInv t

/-- Every step keeps LVL, ACQ and DIR the functions of TRACE the spec says they are (`10_state.md` R12, R13). -/
def Obligations.StepKeepsRegistersFollowingTrace : Prop :=
  ∀ s t : State, FollowsTrace s → step s = .next t → FollowsTrace t

/-- No step ever writes, directs or releases a pin the block does not hold at that moment
(`40_spi_transport.md` R80, R88; `41_sh1106_controller.md` R91, R101). -/
def Obligations.StepTouchesHeldPinsOnly : Prop :=
  ∀ s t : State, LifecycleInv s → FollowsTrace s → TouchesHeldOnly s.trace → step s = .next t →
    TouchesHeldOnly t.trace

/-- No step reads a pin (`40_spi_transport.md` R87). -/
def Obligations.StepNeverReadsAPin : Prop :=
  ∀ s t : State, NeverReads s → step s = .next t → NeverReads t

/-- Every step keeps the memories inside their spaces (`20_memory.md` R40) and in canonical form, which is
the model's representation (log entry 8, DESIGN CHOICE). -/
def Obligations.StepKeepsMemories : Prop :=
  ∀ s t : State, MemoryInv s → step s = .next t → MemoryInv t

/-- Every step keeps LASTRES a result word: bits 31:22 zero, at most one kind bit (`30_encoding.md` R70). -/
def Obligations.StepKeepsResultWord : Prop :=
  ∀ s t : State, ResultInv s → step s = .next t → ResultInv t

/-- LIFE moves only along the lifecycle, and only a hardware reset leads back or out of ShutDown
(`41_sh1106_controller.md` R90, `70_reset_and_hazards.md` R140). -/
def Obligations.LifecycleMovesForward : Prop :=
  ∀ s t : State, step s = .next t → s.inbox.head? ≠ some .hardReset → lifeMayGo s.life t.life = true

/-- No step changes the injected parameters (`10_state.md` R25, `70_reset_and_hazards.md` R141). -/
def Obligations.ParametersNeverChange : Prop :=
  ∀ s t : State, step s = .next t → t.params = s.params

/-- Chip select is written by POWERUP only; every other instruction appends events none of which writes it
(`41_sh1106_controller.md` R102). -/
def Obligations.ChipSelectOnlyInPowerUp : Prop :=
  ∀ (i : Instr) (s t : State), i ≠ .powerup → exec i s = .next t →
    ∃ new, t.events = s.events ++ new ∧ ∀ x ∈ new, ∀ v, x.event ≠ .write .cs v

/-- A command that ends in InvalidArgument or SequenceViolation is exact: nothing changed but PFAIL, which is
clear (log entry 9), and LASTRES (`60_exceptions.md` R123, R124, R128); FB and TX among the rest (log entry
10). -/
def Obligations.RefusedCommandsAreExact : Prop :=
  ∀ (i : Instr) (s t : State), i.space = .host → exec i s = .next t →
    t.lastres.getLsbD 2 = true ∨ t.lastres.getLsbD 3 = true →
      t = { s with pfail := 0#7, lastres := t.lastres }
end

