-- ==== Sys2Proof/Laws/State.lean ====
section
/-! SUPPORT. One lemma per field per update, so that no later proof unfolds a record update: the port
primitive `issue`, the start and end of a command, and the inbox. -/

namespace Sys2Proof.Machine

/-! ## Pins -/

@[simp] theorem Pins.get_all {α : Type} (v : α) (r : Role) : (Pins.all v).get r = v := by cases r <;> rfl

@[simp] theorem Pins.get_clk {α : Type} (p : Pins α) : p.get .clk = p.clk := rfl

@[simp] theorem Pins.get_mosi {α : Type} (p : Pins α) : p.get .mosi = p.mosi := rfl

@[simp] theorem Pins.get_miso {α : Type} (p : Pins α) : p.get .miso = p.miso := rfl

@[simp] theorem Pins.get_cs {α : Type} (p : Pins α) : p.get .cs = p.cs := rfl

@[simp] theorem Pins.get_dc {α : Type} (p : Pins α) : p.get .dc = p.dc := rfl

@[simp] theorem Pins.get_rst {α : Type} (p : Pins α) : p.get .rst = p.rst := rfl

@[simp] theorem Pins.get_bl {α : Type} (p : Pins α) : p.get .bl = p.bl := rfl

@[simp] theorem Pins.get_set_self {α : Type} (p : Pins α) (r : Role) (v : α) : (p.set r v).get r = v := by
  cases r <;> rfl

theorem Pins.get_set_of_ne {α : Type} (p : Pins α) {r q : Role} (v : α) (h : q ≠ r) :
    (p.set r v).get q = p.get q := by
  cases r <;> cases q <;> first | rfl | exact absurd rfl h

theorem Pins.get_set {α : Type} (p : Pins α) (r q : Role) (v : α) :
    (p.set r v).get q = if q = r then v else p.get q := by
  cases r <;> cases q <;> rfl

theorem Pins.ext_get {α : Type} {p q : Pins α} (h : ∀ r, p.get r = q.get r) : p = q := by
  cases p; cases q
  simp only [Pins.mk.injEq]
  exact ⟨h .clk, h .mosi, h .miso, h .cs, h .dc, h .rst, h .bl⟩

/-! ## Per-role bit registers -/

theorem roleBit_setRoleBit (b : BitVec 7) (r q : Role) :
    roleBit (setRoleBit b r) q = (decide (q = r) || roleBit b q) := by
  cases r <;> cases q <;> simp [roleBit, setRoleBit, Role.index]

theorem roleBit_clearRoleBit (b : BitVec 7) (r q : Role) :
    roleBit (clearRoleBit b r) q = (!decide (q = r) && roleBit b q) := by
  cases r <;> cases q <;> simp [roleBit, clearRoleBit, Role.index]

@[simp] theorem roleBit_zero (r : Role) : roleBit 0#7 r = false := by cases r <;> rfl

@[simp] theorem roleBit_all (r : Role) : roleBit 0x7F#7 r = true := by cases r <;> rfl

theorem roleBit_ext {a b : BitVec 7} (h : ∀ r, roleBit a r = roleBit b r) : a = b := by
  apply BitVec.eq_of_getLsbD_eq
  intro i hi
  have h0 := h .clk
  have h1 := h .mosi
  have h2 := h .miso
  have h3 := h .cs
  have h4 := h .dc
  have h5 := h .rst
  have h6 := h .bl
  simp only [roleBit, Role.index] at h0 h1 h2 h3 h4 h5 h6
  interval_cases i <;> assumption

theorem mem_roleOrder (r : Role) : r ∈ roleOrder := by cases r <;> decide

theorem nodup_roleOrder : roleOrder.Nodup := by decide

/-! ## The port primitive -/

@[simp] theorem issue_life (e : PortEvent) (s : State) : (issue e s).life = s.life := by cases e <;> rfl

@[simp] theorem issue_inited (e : PortEvent) (s : State) : (issue e s).inited = s.inited := by cases e <;> rfl

@[simp] theorem issue_acq (e : PortEvent) (s : State) : (issue e s).acq = s.acq := by cases e <;> rfl

@[simp] theorem issue_dir (e : PortEvent) (s : State) : (issue e s).dir = s.dir := by cases e <;> rfl

@[simp] theorem issue_sdreq (e : PortEvent) (s : State) : (issue e s).sdreq = s.sdreq := by cases e <;> rfl

@[simp] theorem issue_lastres (e : PortEvent) (s : State) : (issue e s).lastres = s.lastres := by cases e <;> rfl

@[simp] theorem issue_sr (e : PortEvent) (s : State) : (issue e s).sr = s.sr := by cases e <;> rfl

@[simp] theorem issue_clkv (e : PortEvent) (s : State) : (issue e s).clkv = s.clkv := by cases e <;> rfl

@[simp] theorem issue_bitn (e : PortEvent) (s : State) : (issue e s).bitn = s.bitn := by cases e <;> rfl

@[simp] theorem issue_page (e : PortEvent) (s : State) : (issue e s).page = s.page := by cases e <;> rfl

@[simp] theorem issue_col (e : PortEvent) (s : State) : (issue e s).col = s.col := by cases e <;> rfl

@[simp] theorem issue_initi (e : PortEvent) (s : State) : (issue e s).initi = s.initi := by cases e <;> rfl

@[simp] theorem issue_chi (e : PortEvent) (s : State) : (issue e s).chi = s.chi := by cases e <;> rfl

@[simp] theorem issue_gcol (e : PortEvent) (s : State) : (issue e s).gcol = s.gcol := by cases e <;> rfl

@[simp] theorem issue_pb (e : PortEvent) (s : State) : (issue e s).pb = s.pb := by cases e <;> rfl

@[simp] theorem issue_fb (e : PortEvent) (s : State) : (issue e s).fb = s.fb := by cases e <;> rfl

@[simp] theorem issue_tx (e : PortEvent) (s : State) : (issue e s).tx = s.tx := by cases e <;> rfl

@[simp] theorem issue_wire (e : PortEvent) (s : State) : (issue e s).wire = s.wire := by cases e <;> rfl

@[simp] theorem issue_params (e : PortEvent) (s : State) : (issue e s).params = s.params := by cases e <;> rfl

@[simp] theorem issue_inbox (e : PortEvent) (s : State) : (issue e s).inbox = s.inbox := by cases e <;> rfl

/-! ## beginCommand -/

@[simp] theorem beginCommand_life (s : State) : (beginCommand s).life = s.life := rfl

@[simp] theorem beginCommand_inited (s : State) : (beginCommand s).inited = s.inited := rfl

@[simp] theorem beginCommand_acq (s : State) : (beginCommand s).acq = s.acq := rfl

@[simp] theorem beginCommand_dir (s : State) : (beginCommand s).dir = s.dir := rfl

@[simp] theorem beginCommand_sdreq (s : State) : (beginCommand s).sdreq = s.sdreq := rfl

@[simp] theorem beginCommand_pfail (s : State) : (beginCommand s).pfail = 0#7 := rfl

@[simp] theorem beginCommand_lastres (s : State) : (beginCommand s).lastres = s.lastres := rfl

@[simp] theorem beginCommand_lvl (s : State) : (beginCommand s).lvl = s.lvl := rfl

@[simp] theorem beginCommand_sr (s : State) : (beginCommand s).sr = s.sr := rfl

@[simp] theorem beginCommand_clkv (s : State) : (beginCommand s).clkv = s.clkv := rfl

@[simp] theorem beginCommand_bitn (s : State) : (beginCommand s).bitn = s.bitn := rfl

@[simp] theorem beginCommand_page (s : State) : (beginCommand s).page = s.page := rfl

@[simp] theorem beginCommand_col (s : State) : (beginCommand s).col = s.col := rfl

@[simp] theorem beginCommand_initi (s : State) : (beginCommand s).initi = s.initi := rfl

@[simp] theorem beginCommand_chi (s : State) : (beginCommand s).chi = s.chi := rfl

@[simp] theorem beginCommand_gcol (s : State) : (beginCommand s).gcol = s.gcol := rfl

@[simp] theorem beginCommand_pb (s : State) : (beginCommand s).pb = s.pb := rfl

@[simp] theorem beginCommand_fb (s : State) : (beginCommand s).fb = s.fb := rfl

@[simp] theorem beginCommand_tx (s : State) : (beginCommand s).tx = s.tx := rfl

@[simp] theorem beginCommand_trace (s : State) : (beginCommand s).trace = s.trace := rfl

@[simp] theorem beginCommand_wire (s : State) : (beginCommand s).wire = s.wire := rfl

@[simp] theorem beginCommand_params (s : State) : (beginCommand s).params = s.params := rfl

@[simp] theorem beginCommand_inbox (s : State) : (beginCommand s).inbox = s.inbox := rfl

@[simp] theorem beginCommand_answers (s : State) : (beginCommand s).answers = s.answers := rfl

@[simp] theorem beginCommand_portCalls (s : State) : (beginCommand s).portCalls = s.portCalls := rfl

/-! ## finish -/

@[simp] theorem finish_life (k : Option ErrorKind) (m : BitVec 7) (s : State) : (finish k m s).life = s.life := rfl

@[simp] theorem finish_inited (k : Option ErrorKind) (m : BitVec 7) (s : State) : (finish k m s).inited = s.inited := rfl

@[simp] theorem finish_acq (k : Option ErrorKind) (m : BitVec 7) (s : State) : (finish k m s).acq = s.acq := rfl

@[simp] theorem finish_dir (k : Option ErrorKind) (m : BitVec 7) (s : State) : (finish k m s).dir = s.dir := rfl

@[simp] theorem finish_sdreq (k : Option ErrorKind) (m : BitVec 7) (s : State) : (finish k m s).sdreq = s.sdreq := rfl

@[simp] theorem finish_pfail (k : Option ErrorKind) (m : BitVec 7) (s : State) : (finish k m s).pfail = s.pfail := rfl

@[simp] theorem finish_lastres (k : Option ErrorKind) (m : BitVec 7) (s : State) : (finish k m s).lastres = resultWord k m s := rfl

@[simp] theorem finish_lvl (k : Option ErrorKind) (m : BitVec 7) (s : State) : (finish k m s).lvl = s.lvl := rfl

@[simp] theorem finish_sr (k : Option ErrorKind) (m : BitVec 7) (s : State) : (finish k m s).sr = s.sr := rfl

@[simp] theorem finish_clkv (k : Option ErrorKind) (m : BitVec 7) (s : State) : (finish k m s).clkv = s.clkv := rfl

@[simp] theorem finish_bitn (k : Option ErrorKind) (m : BitVec 7) (s : State) : (finish k m s).bitn = s.bitn := rfl

@[simp] theorem finish_page (k : Option ErrorKind) (m : BitVec 7) (s : State) : (finish k m s).page = s.page := rfl

@[simp] theorem finish_col (k : Option ErrorKind) (m : BitVec 7) (s : State) : (finish k m s).col = s.col := rfl

@[simp] theorem finish_initi (k : Option ErrorKind) (m : BitVec 7) (s : State) : (finish k m s).initi = s.initi := rfl

@[simp] theorem finish_chi (k : Option ErrorKind) (m : BitVec 7) (s : State) : (finish k m s).chi = s.chi := rfl

@[simp] theorem finish_gcol (k : Option ErrorKind) (m : BitVec 7) (s : State) : (finish k m s).gcol = s.gcol := rfl

@[simp] theorem finish_pb (k : Option ErrorKind) (m : BitVec 7) (s : State) : (finish k m s).pb = s.pb := rfl

@[simp] theorem finish_fb (k : Option ErrorKind) (m : BitVec 7) (s : State) : (finish k m s).fb = s.fb := rfl

@[simp] theorem finish_tx (k : Option ErrorKind) (m : BitVec 7) (s : State) : (finish k m s).tx = s.tx := rfl

@[simp] theorem finish_trace (k : Option ErrorKind) (m : BitVec 7) (s : State) : (finish k m s).trace = s.trace := rfl

@[simp] theorem finish_wire (k : Option ErrorKind) (m : BitVec 7) (s : State) : (finish k m s).wire = s.wire := rfl

@[simp] theorem finish_params (k : Option ErrorKind) (m : BitVec 7) (s : State) : (finish k m s).params = s.params := rfl

@[simp] theorem finish_inbox (k : Option ErrorKind) (m : BitVec 7) (s : State) : (finish k m s).inbox = s.inbox := rfl

@[simp] theorem finish_answers (k : Option ErrorKind) (m : BitVec 7) (s : State) : (finish k m s).answers = s.answers := rfl

@[simp] theorem finish_portCalls (k : Option ErrorKind) (m : BitVec 7) (s : State) : (finish k m s).portCalls = s.portCalls := rfl

/-! ## raise -/

@[simp] theorem raise_life (k : ErrorKind) (m : BitVec 7) (s : State) : (raise k m s).life = s.life := rfl

@[simp] theorem raise_inited (k : ErrorKind) (m : BitVec 7) (s : State) : (raise k m s).inited = s.inited := rfl

@[simp] theorem raise_acq (k : ErrorKind) (m : BitVec 7) (s : State) : (raise k m s).acq = s.acq := rfl

@[simp] theorem raise_dir (k : ErrorKind) (m : BitVec 7) (s : State) : (raise k m s).dir = s.dir := rfl

@[simp] theorem raise_sdreq (k : ErrorKind) (m : BitVec 7) (s : State) : (raise k m s).sdreq = s.sdreq := rfl

@[simp] theorem raise_pfail (k : ErrorKind) (m : BitVec 7) (s : State) : (raise k m s).pfail = s.pfail := rfl

@[simp] theorem raise_lastres (k : ErrorKind) (m : BitVec 7) (s : State) : (raise k m s).lastres = resultWord (some k) m s := rfl

@[simp] theorem raise_lvl (k : ErrorKind) (m : BitVec 7) (s : State) : (raise k m s).lvl = s.lvl := rfl

@[simp] theorem raise_sr (k : ErrorKind) (m : BitVec 7) (s : State) : (raise k m s).sr = s.sr := rfl

@[simp] theorem raise_clkv (k : ErrorKind) (m : BitVec 7) (s : State) : (raise k m s).clkv = s.clkv := rfl

@[simp] theorem raise_bitn (k : ErrorKind) (m : BitVec 7) (s : State) : (raise k m s).bitn = s.bitn := rfl

@[simp] theorem raise_page (k : ErrorKind) (m : BitVec 7) (s : State) : (raise k m s).page = s.page := rfl

@[simp] theorem raise_col (k : ErrorKind) (m : BitVec 7) (s : State) : (raise k m s).col = s.col := rfl

@[simp] theorem raise_initi (k : ErrorKind) (m : BitVec 7) (s : State) : (raise k m s).initi = s.initi := rfl

@[simp] theorem raise_chi (k : ErrorKind) (m : BitVec 7) (s : State) : (raise k m s).chi = s.chi := rfl

@[simp] theorem raise_gcol (k : ErrorKind) (m : BitVec 7) (s : State) : (raise k m s).gcol = s.gcol := rfl

@[simp] theorem raise_pb (k : ErrorKind) (m : BitVec 7) (s : State) : (raise k m s).pb = s.pb := rfl

@[simp] theorem raise_fb (k : ErrorKind) (m : BitVec 7) (s : State) : (raise k m s).fb = s.fb := rfl

@[simp] theorem raise_tx (k : ErrorKind) (m : BitVec 7) (s : State) : (raise k m s).tx = s.tx := rfl

@[simp] theorem raise_trace (k : ErrorKind) (m : BitVec 7) (s : State) : (raise k m s).trace = s.trace := rfl

@[simp] theorem raise_wire (k : ErrorKind) (m : BitVec 7) (s : State) : (raise k m s).wire = s.wire := rfl

@[simp] theorem raise_params (k : ErrorKind) (m : BitVec 7) (s : State) : (raise k m s).params = s.params := rfl

@[simp] theorem raise_inbox (k : ErrorKind) (m : BitVec 7) (s : State) : (raise k m s).inbox = s.inbox := rfl

@[simp] theorem raise_answers (k : ErrorKind) (m : BitVec 7) (s : State) : (raise k m s).answers = s.answers := rfl

@[simp] theorem raise_portCalls (k : ErrorKind) (m : BitVec 7) (s : State) : (raise k m s).portCalls = s.portCalls := rfl

/-! ## withInbox -/

@[simp] theorem withInbox_life (rest : List Input) (s : State) : (withInbox rest s).life = s.life := rfl

@[simp] theorem withInbox_inited (rest : List Input) (s : State) : (withInbox rest s).inited = s.inited := rfl

@[simp] theorem withInbox_acq (rest : List Input) (s : State) : (withInbox rest s).acq = s.acq := rfl

@[simp] theorem withInbox_dir (rest : List Input) (s : State) : (withInbox rest s).dir = s.dir := rfl

@[simp] theorem withInbox_sdreq (rest : List Input) (s : State) : (withInbox rest s).sdreq = s.sdreq := rfl

@[simp] theorem withInbox_pfail (rest : List Input) (s : State) : (withInbox rest s).pfail = s.pfail := rfl

@[simp] theorem withInbox_lastres (rest : List Input) (s : State) : (withInbox rest s).lastres = s.lastres := rfl

@[simp] theorem withInbox_lvl (rest : List Input) (s : State) : (withInbox rest s).lvl = s.lvl := rfl

@[simp] theorem withInbox_sr (rest : List Input) (s : State) : (withInbox rest s).sr = s.sr := rfl

@[simp] theorem withInbox_clkv (rest : List Input) (s : State) : (withInbox rest s).clkv = s.clkv := rfl

@[simp] theorem withInbox_bitn (rest : List Input) (s : State) : (withInbox rest s).bitn = s.bitn := rfl

@[simp] theorem withInbox_page (rest : List Input) (s : State) : (withInbox rest s).page = s.page := rfl

@[simp] theorem withInbox_col (rest : List Input) (s : State) : (withInbox rest s).col = s.col := rfl

@[simp] theorem withInbox_initi (rest : List Input) (s : State) : (withInbox rest s).initi = s.initi := rfl

@[simp] theorem withInbox_chi (rest : List Input) (s : State) : (withInbox rest s).chi = s.chi := rfl

@[simp] theorem withInbox_gcol (rest : List Input) (s : State) : (withInbox rest s).gcol = s.gcol := rfl

@[simp] theorem withInbox_pb (rest : List Input) (s : State) : (withInbox rest s).pb = s.pb := rfl

@[simp] theorem withInbox_fb (rest : List Input) (s : State) : (withInbox rest s).fb = s.fb := rfl

@[simp] theorem withInbox_tx (rest : List Input) (s : State) : (withInbox rest s).tx = s.tx := rfl

@[simp] theorem withInbox_trace (rest : List Input) (s : State) : (withInbox rest s).trace = s.trace := rfl

@[simp] theorem withInbox_wire (rest : List Input) (s : State) : (withInbox rest s).wire = s.wire := rfl

@[simp] theorem withInbox_params (rest : List Input) (s : State) : (withInbox rest s).params = s.params := rfl

@[simp] theorem withInbox_inbox (rest : List Input) (s : State) : (withInbox rest s).inbox = rest := rfl

@[simp] theorem withInbox_answers (rest : List Input) (s : State) : (withInbox rest s).answers = s.answers := rfl

@[simp] theorem withInbox_portCalls (rest : List Input) (s : State) : (withInbox rest s).portCalls = s.portCalls := rfl

/-! ## raiseRequest -/

@[simp] theorem raiseRequest_life (s : State) : (raiseRequest s).life = s.life := rfl

@[simp] theorem raiseRequest_inited (s : State) : (raiseRequest s).inited = s.inited := rfl

@[simp] theorem raiseRequest_acq (s : State) : (raiseRequest s).acq = s.acq := rfl

@[simp] theorem raiseRequest_dir (s : State) : (raiseRequest s).dir = s.dir := rfl

@[simp] theorem raiseRequest_sdreq (s : State) : (raiseRequest s).sdreq = true := rfl

@[simp] theorem raiseRequest_pfail (s : State) : (raiseRequest s).pfail = s.pfail := rfl

@[simp] theorem raiseRequest_lastres (s : State) : (raiseRequest s).lastres = s.lastres := rfl

@[simp] theorem raiseRequest_lvl (s : State) : (raiseRequest s).lvl = s.lvl := rfl

@[simp] theorem raiseRequest_sr (s : State) : (raiseRequest s).sr = s.sr := rfl

@[simp] theorem raiseRequest_clkv (s : State) : (raiseRequest s).clkv = s.clkv := rfl

@[simp] theorem raiseRequest_bitn (s : State) : (raiseRequest s).bitn = s.bitn := rfl

@[simp] theorem raiseRequest_page (s : State) : (raiseRequest s).page = s.page := rfl

@[simp] theorem raiseRequest_col (s : State) : (raiseRequest s).col = s.col := rfl

@[simp] theorem raiseRequest_initi (s : State) : (raiseRequest s).initi = s.initi := rfl

@[simp] theorem raiseRequest_chi (s : State) : (raiseRequest s).chi = s.chi := rfl

@[simp] theorem raiseRequest_gcol (s : State) : (raiseRequest s).gcol = s.gcol := rfl

@[simp] theorem raiseRequest_pb (s : State) : (raiseRequest s).pb = s.pb := rfl

@[simp] theorem raiseRequest_fb (s : State) : (raiseRequest s).fb = s.fb := rfl

@[simp] theorem raiseRequest_tx (s : State) : (raiseRequest s).tx = s.tx := rfl

@[simp] theorem raiseRequest_trace (s : State) : (raiseRequest s).trace = s.trace := rfl

@[simp] theorem raiseRequest_wire (s : State) : (raiseRequest s).wire = s.wire := rfl

@[simp] theorem raiseRequest_params (s : State) : (raiseRequest s).params = s.params := rfl

@[simp] theorem raiseRequest_inbox (s : State) : (raiseRequest s).inbox = s.inbox := rfl

@[simp] theorem raiseRequest_answers (s : State) : (raiseRequest s).answers = s.answers := rfl

@[simp] theorem raiseRequest_portCalls (s : State) : (raiseRequest s).portCalls = s.portCalls := rfl

/-! ## loadFrame -/

@[simp] theorem loadFrame_life (p : List Byte) (s : State) : (loadFrame p s).life = s.life := rfl

@[simp] theorem loadFrame_inited (p : List Byte) (s : State) : (loadFrame p s).inited = s.inited := rfl

@[simp] theorem loadFrame_acq (p : List Byte) (s : State) : (loadFrame p s).acq = s.acq := rfl

@[simp] theorem loadFrame_dir (p : List Byte) (s : State) : (loadFrame p s).dir = s.dir := rfl

@[simp] theorem loadFrame_sdreq (p : List Byte) (s : State) : (loadFrame p s).sdreq = s.sdreq := rfl

@[simp] theorem loadFrame_pfail (p : List Byte) (s : State) : (loadFrame p s).pfail = s.pfail := rfl

@[simp] theorem loadFrame_lastres (p : List Byte) (s : State) : (loadFrame p s).lastres = s.lastres := rfl

@[simp] theorem loadFrame_lvl (p : List Byte) (s : State) : (loadFrame p s).lvl = s.lvl := rfl

@[simp] theorem loadFrame_sr (p : List Byte) (s : State) : (loadFrame p s).sr = s.sr := rfl

@[simp] theorem loadFrame_clkv (p : List Byte) (s : State) : (loadFrame p s).clkv = s.clkv := rfl

@[simp] theorem loadFrame_bitn (p : List Byte) (s : State) : (loadFrame p s).bitn = s.bitn := rfl

@[simp] theorem loadFrame_page (p : List Byte) (s : State) : (loadFrame p s).page = s.page := rfl

@[simp] theorem loadFrame_col (p : List Byte) (s : State) : (loadFrame p s).col = s.col := rfl

@[simp] theorem loadFrame_initi (p : List Byte) (s : State) : (loadFrame p s).initi = s.initi := rfl

@[simp] theorem loadFrame_chi (p : List Byte) (s : State) : (loadFrame p s).chi = s.chi := rfl

@[simp] theorem loadFrame_gcol (p : List Byte) (s : State) : (loadFrame p s).gcol = s.gcol := rfl

@[simp] theorem loadFrame_pb (p : List Byte) (s : State) : (loadFrame p s).pb = s.pb := rfl

@[simp] theorem loadFrame_fb (p : List Byte) (s : State) : (loadFrame p s).fb = Memory.load s.fb p := rfl

@[simp] theorem loadFrame_tx (p : List Byte) (s : State) : (loadFrame p s).tx = s.tx := rfl

@[simp] theorem loadFrame_trace (p : List Byte) (s : State) : (loadFrame p s).trace = s.trace := rfl

@[simp] theorem loadFrame_wire (p : List Byte) (s : State) : (loadFrame p s).wire = s.wire := rfl

@[simp] theorem loadFrame_params (p : List Byte) (s : State) : (loadFrame p s).params = s.params := rfl

@[simp] theorem loadFrame_inbox (p : List Byte) (s : State) : (loadFrame p s).inbox = s.inbox := rfl

@[simp] theorem loadFrame_answers (p : List Byte) (s : State) : (loadFrame p s).answers = s.answers := rfl

@[simp] theorem loadFrame_portCalls (p : List Byte) (s : State) : (loadFrame p s).portCalls = s.portCalls := rfl

/-! ## loadText -/

@[simp] theorem loadText_life (p : List Byte) (s : State) : (loadText p s).life = s.life := rfl

@[simp] theorem loadText_inited (p : List Byte) (s : State) : (loadText p s).inited = s.inited := rfl

@[simp] theorem loadText_acq (p : List Byte) (s : State) : (loadText p s).acq = s.acq := rfl

@[simp] theorem loadText_dir (p : List Byte) (s : State) : (loadText p s).dir = s.dir := rfl

@[simp] theorem loadText_sdreq (p : List Byte) (s : State) : (loadText p s).sdreq = s.sdreq := rfl

@[simp] theorem loadText_pfail (p : List Byte) (s : State) : (loadText p s).pfail = s.pfail := rfl

@[simp] theorem loadText_lastres (p : List Byte) (s : State) : (loadText p s).lastres = s.lastres := rfl

@[simp] theorem loadText_lvl (p : List Byte) (s : State) : (loadText p s).lvl = s.lvl := rfl

@[simp] theorem loadText_sr (p : List Byte) (s : State) : (loadText p s).sr = s.sr := rfl

@[simp] theorem loadText_clkv (p : List Byte) (s : State) : (loadText p s).clkv = s.clkv := rfl

@[simp] theorem loadText_bitn (p : List Byte) (s : State) : (loadText p s).bitn = s.bitn := rfl

@[simp] theorem loadText_page (p : List Byte) (s : State) : (loadText p s).page = s.page := rfl

@[simp] theorem loadText_col (p : List Byte) (s : State) : (loadText p s).col = s.col := rfl

@[simp] theorem loadText_initi (p : List Byte) (s : State) : (loadText p s).initi = s.initi := rfl

@[simp] theorem loadText_chi (p : List Byte) (s : State) : (loadText p s).chi = s.chi := rfl

@[simp] theorem loadText_gcol (p : List Byte) (s : State) : (loadText p s).gcol = s.gcol := rfl

@[simp] theorem loadText_pb (p : List Byte) (s : State) : (loadText p s).pb = s.pb := rfl

@[simp] theorem loadText_fb (p : List Byte) (s : State) : (loadText p s).fb = s.fb := rfl

@[simp] theorem loadText_tx (p : List Byte) (s : State) : (loadText p s).tx = Memory.load s.tx p := rfl

@[simp] theorem loadText_trace (p : List Byte) (s : State) : (loadText p s).trace = s.trace := rfl

@[simp] theorem loadText_wire (p : List Byte) (s : State) : (loadText p s).wire = s.wire := rfl

@[simp] theorem loadText_params (p : List Byte) (s : State) : (loadText p s).params = s.params := rfl

@[simp] theorem loadText_inbox (p : List Byte) (s : State) : (loadText p s).inbox = s.inbox := rfl

@[simp] theorem loadText_answers (p : List Byte) (s : State) : (loadText p s).answers = s.answers := rfl

@[simp] theorem loadText_portCalls (p : List Byte) (s : State) : (loadText p s).portCalls = s.portCalls := rfl

/-! ## convertFrame -/

@[simp] theorem convertFrame_life (s : State) : (convertFrame s).life = s.life := rfl

@[simp] theorem convertFrame_inited (s : State) : (convertFrame s).inited = s.inited := rfl

@[simp] theorem convertFrame_acq (s : State) : (convertFrame s).acq = s.acq := rfl

@[simp] theorem convertFrame_dir (s : State) : (convertFrame s).dir = s.dir := rfl

@[simp] theorem convertFrame_sdreq (s : State) : (convertFrame s).sdreq = s.sdreq := rfl

@[simp] theorem convertFrame_pfail (s : State) : (convertFrame s).pfail = s.pfail := rfl

@[simp] theorem convertFrame_lastres (s : State) : (convertFrame s).lastres = s.lastres := rfl

@[simp] theorem convertFrame_lvl (s : State) : (convertFrame s).lvl = s.lvl := rfl

@[simp] theorem convertFrame_sr (s : State) : (convertFrame s).sr = s.sr := rfl

@[simp] theorem convertFrame_clkv (s : State) : (convertFrame s).clkv = s.clkv := rfl

@[simp] theorem convertFrame_bitn (s : State) : (convertFrame s).bitn = s.bitn := rfl

@[simp] theorem convertFrame_page (s : State) : (convertFrame s).page = s.page := rfl

@[simp] theorem convertFrame_col (s : State) : (convertFrame s).col = s.col := rfl

@[simp] theorem convertFrame_initi (s : State) : (convertFrame s).initi = s.initi := rfl

@[simp] theorem convertFrame_chi (s : State) : (convertFrame s).chi = s.chi := rfl

@[simp] theorem convertFrame_gcol (s : State) : (convertFrame s).gcol = s.gcol := rfl

@[simp] theorem convertFrame_pb (s : State) : (convertFrame s).pb = toPages s.fb s.pb := rfl

@[simp] theorem convertFrame_fb (s : State) : (convertFrame s).fb = s.fb := rfl

@[simp] theorem convertFrame_tx (s : State) : (convertFrame s).tx = s.tx := rfl

@[simp] theorem convertFrame_trace (s : State) : (convertFrame s).trace = s.trace := rfl

@[simp] theorem convertFrame_wire (s : State) : (convertFrame s).wire = s.wire := rfl

@[simp] theorem convertFrame_params (s : State) : (convertFrame s).params = s.params := rfl

@[simp] theorem convertFrame_inbox (s : State) : (convertFrame s).inbox = s.inbox := rfl

@[simp] theorem convertFrame_answers (s : State) : (convertFrame s).answers = s.answers := rfl

@[simp] theorem convertFrame_portCalls (s : State) : (convertFrame s).portCalls = s.portCalls := rfl

/-! ## What `issue` does to the port's part of the state -/

theorem issue_delay (ms : Nat) (s : State) :
    issue (.delay ms) s = { s with trace := ⟨.delay ms, none⟩ :: s.trace } := rfl

/-- Everything a port call does. -/
theorem issue_call {e : PortEvent} {r : Role} (h : e.role? = some r) (s : State) :
    issue e s =
      { s with
        trace := ⟨e, some (s.answerAt 0)⟩ :: s.trace
        lvl := levelsAfter e (s.answerAt 0) s.lvl
        pfail := pfailAfter r (s.answerAt 0) s.pfail
        answers := s.answers.tail
        portCalls := s.portCalls + 1 } := by
  simp only [issue, h]

/-- After a call, the next answers are the ones that were to come after it. -/
theorem issue_answerAt {e : PortEvent} {r : Role} (h : e.role? = some r) (s : State) (k : Nat) :
    (issue e s).answerAt k = s.answerAt (k + 1) := by
  rw [issue_call h]
  simp only [State.answerAt, List.getElem?_tail, Nat.add_assoc, Nat.add_comm 1 k]

@[simp] theorem issue_delay_answerAt (ms : Nat) (s : State) (k : Nat) :
    (issue (.delay ms) s).answerAt k = s.answerAt k := rfl

end Sys2Proof.Machine
end

