-- ==== Sys2Proof/Laws/Memory.lean ====
section
/-! SUPPORT. The byte memories: what a fill and a load leave, that each keeps the canonical form, and that
a canonical memory is determined by what it reads. -/

namespace Sys2Proof.Machine

@[simp] theorem Memory.read_nil (a : Nat) : Memory.read [] a = 0 := rfl

theorem Memory.read_cons (c : Host.Cell) (m : Memory) (a : Nat) :
    Memory.read (c :: m) a = if c.1 = a then c.2 else Memory.read m a := rfl

/-- Below every listed address, a memory reads 0. -/
theorem Memory.read_eq_zero {m : Memory} {a : Nat} (h : ∀ c ∈ m, c.1 ≠ a) : Memory.read m a = 0 := by
  induction m with
  | nil => rfl
  | cons c m ih =>
    rw [Memory.read_cons, if_neg (h c (List.mem_cons_self ..))]
    exact ih fun d hd => h d (List.mem_cons_of_mem _ hd)

/-- Dropping the cells below n leaves the others. -/
theorem Memory.read_filter (m : Memory) (n a : Nat) :
    Memory.read (m.filter fun c => n ≤ c.1) a = if n ≤ a then Memory.read m a else 0 := by
  induction m with
  | nil => simp
  | cons c m ih =>
    by_cases hc : n ≤ c.1
    · rw [List.filter_cons_of_pos (by simpa using hc), Memory.read_cons, Memory.read_cons, ih]
      split <;> rename_i h <;> subst_vars <;> simp_all
    · rw [List.filter_cons_of_neg (by simpa using hc), ih, Memory.read_cons]
      by_cases ha : n ≤ a
      · rw [if_pos ha, if_pos ha, if_neg (by omega)]
      · rw [if_neg ha, if_neg ha]

theorem Memory.read_fillBefore (f : Nat → Byte) (n : Nat) (rest : Memory) (h : ∀ c ∈ rest, n ≤ c.1) (a : Nat) :
    Memory.read (Memory.fillBefore f n rest) a = if a < n then f a else Memory.read rest a := by
  induction n generalizing rest with
  | zero => simp [Memory.fillBefore]
  | succ k ih =>
    rw [Memory.fillBefore]
    have hrest : ∀ c ∈ (if f k = 0 then rest else (k, f k) :: rest), k ≤ c.1 := by
      intro c hc
      split at hc
      · exact Nat.le_of_succ_le (h c hc)
      · rcases List.mem_cons.mp hc with rfl | hc
        · exact Nat.le_refl _
        · exact Nat.le_of_succ_le (h c hc)
    rw [ih _ hrest]
    by_cases hak : a < k
    · rw [if_pos hak, if_pos (by omega)]
    · rw [if_neg hak]
      by_cases hk : a = k
      · subst hk
        rw [if_pos (Nat.lt_succ_self _)]
        split
        · rename_i h0
          rw [h0, Memory.read_eq_zero fun c hc => by have := h c hc; omega]
        · rw [Memory.read_cons, if_pos rfl]
      · rw [if_neg (show ¬a < k + 1 by omega)]
        split
        · rfl
        · rw [Memory.read_cons, if_neg (show ¬k = a from Ne.symm hk)]

/-- What a fill leaves: the filled bytes, and every byte outside them as before. -/
theorem Memory.read_fill (m : Memory) (n : Nat) (f : Nat → Byte) (a : Nat) :
    Memory.read (m.fill n f) a = if a < n then f a else Memory.read m a := by
  rw [Memory.fill, Memory.read_fillBefore _ _ _ (by simp), Memory.read_filter]
  by_cases h : a < n
  · rw [if_pos h, if_pos h]
  · rw [if_neg h, if_neg h, if_pos (by omega)]

/-- What a load leaves. -/
theorem Memory.read_load (m : Memory) (bytes : List Byte) (a : Nat) :
    Memory.read (m.load bytes) a = if a < bytes.length then bytes.getD a 0 else Memory.read m a :=
  Memory.read_fill ..

theorem Memory.mem_fillBefore {f : Nat → Byte} {n : Nat} {rest : Memory} {c : Host.Cell}
    (h : c ∈ Memory.fillBefore f n rest) : (c.1 < n ∧ c.2 ≠ 0) ∨ c ∈ rest := by
  induction n generalizing rest with
  | zero => exact .inr h
  | succ k ih =>
    rw [Memory.fillBefore] at h
    rcases ih h with ⟨hk, h0⟩ | hc
    · exact .inl ⟨by omega, h0⟩
    · split at hc
      · exact .inr hc
      · rename_i hf
        rcases List.mem_cons.mp hc with rfl | hc
        · exact .inl ⟨Nat.lt_succ_self _, hf⟩
        · exact .inr hc

theorem Memory.wf_fillBefore (f : Nat → Byte) (n : Nat) (rest : Memory) (hr : Memory.wf rest)
    (h : ∀ c ∈ rest, n ≤ c.1) : Memory.wf (Memory.fillBefore f n rest) := by
  induction n generalizing rest with
  | zero => exact hr
  | succ k ih =>
    rw [Memory.fillBefore]
    apply ih
    · split
      · exact hr
      · rename_i hf
        refine ⟨List.pairwise_cons.mpr ⟨fun c hc => h c hc, hr.1⟩, ?_⟩
        intro c hc
        rcases List.mem_cons.mp hc with rfl | hc
        · exact hf
        · exact hr.2 c hc
    · intro c hc
      split at hc
      · exact Nat.le_of_succ_le (h c hc)
      · rcases List.mem_cons.mp hc with rfl | hc
        · exact Nat.le_refl _
        · exact Nat.le_of_succ_le (h c hc)

/-- A fill keeps the canonical form. -/
theorem Memory.wf_fill {m : Memory} (hm : Memory.wf m) (n : Nat) (f : Nat → Byte) : Memory.wf (m.fill n f) := by
  refine Memory.wf_fillBefore f n _ ⟨hm.1.filter _, fun c hc => hm.2 c (List.mem_filter.mp hc).1⟩ ?_
  intro c hc
  simpa using (List.mem_filter.mp hc).2

/-- A load keeps the canonical form. -/
theorem Memory.wf_load {m : Memory} (hm : Memory.wf m) (bytes : List Byte) : Memory.wf (m.load bytes) :=
  Memory.wf_fill hm ..

/-- A fill lists no new address at or above n. -/
theorem Memory.bound_fill {m : Memory} {n b : Nat} {f : Nat → Byte} (hn : n ≤ b) (hm : ∀ c ∈ m, c.1 < b) :
    ∀ c ∈ m.fill n f, c.1 < b := by
  intro c hc
  rcases Memory.mem_fillBefore hc with h | h
  · omega
  · exact hm c (List.mem_filter.mp h).1

theorem Memory.bound_load {m : Memory} {b : Nat} {bytes : List Byte} (hn : bytes.length ≤ b)
    (hm : ∀ c ∈ m, c.1 < b) : ∀ c ∈ m.load bytes, c.1 < b := Memory.bound_fill hn hm

/-- A cell of a canonical memory is what the memory reads there. -/
theorem Memory.read_of_mem {m : Memory} (hm : Memory.wf m) {c : Host.Cell} (hc : c ∈ m) :
    Memory.read m c.1 = c.2 := by
  induction m with
  | nil => cases hc
  | cons d m ih =>
    rw [Memory.read_cons]
    rcases List.mem_cons.mp hc with rfl | hc'
    · rw [if_pos rfl]
    · have : d.1 < c.1 := (List.pairwise_cons.mp hm.1).1 c hc'
      rw [if_neg (by omega)]
      exact ih ⟨(List.pairwise_cons.mp hm.1).2, fun e he => hm.2 e (List.mem_cons_of_mem _ he)⟩ hc'

/-- Canonical memories that read the same are the same data. -/
theorem Memory.ext_read {m n : Memory} (hm : Memory.wf m) (hn : Memory.wf n)
    (h : ∀ a, Memory.read m a = Memory.read n a) : m = n := by
  have sub : ∀ {m n : Memory}, Memory.wf m → Memory.wf n → (∀ a, Memory.read m a = Memory.read n a) → m ⊆ n := by
    intro m n hm hn h c hc
    have hr : Memory.read n c.1 = c.2 := by rw [← h]; exact Memory.read_of_mem hm hc
    by_contra hne
    have : Memory.read n c.1 = 0 := by
      apply Memory.read_eq_zero
      intro d hd he
      have hd' := Memory.read_of_mem hn hd
      rw [he, hr] at hd'
      exact hne (by rwa [show c = d from Prod.ext he.symm hd'])
    exact hm.2 c hc (hr.symm.trans this)
  have nodup : ∀ {m : Memory}, Memory.wf m → m.Nodup := fun hm =>
    hm.1.imp fun {c d} hcd he => by subst he; exact Nat.lt_irrefl _ hcd
  have perm : m.Perm n :=
    (List.perm_ext_iff_of_nodup (nodup hm) (nodup hn)).mpr fun _ =>
      ⟨fun hc => sub hm hn h hc, fun hc => sub hn hm (fun a => (h a).symm) hc⟩
  exact perm.eq_of_pairwise (fun c d _ _ h1 h2 => absurd h1 (by omega)) hm.1 hn.1

/-- `toPages` fills the 1024 bytes of PB. -/
theorem read_toPages (fb pb : Memory) (a : Nat) :
    Memory.read (toPages fb pb) a = if a < 1024 then pageByte fb (a / 128) (a % 128) else Memory.read pb a := by
  unfold toPages
  exact Memory.read_fill ..

theorem wf_toPages {fb pb : Memory} (h : Memory.wf pb) : Memory.wf (toPages fb pb) := by
  unfold toPages
  exact Memory.wf_fill h ..

theorem bound_toPages {fb pb : Memory} (h : ∀ c ∈ pb, c.1 < 1024) : ∀ c ∈ toPages fb pb, c.1 < 1024 := by
  unfold toPages
  exact Memory.bound_fill (Nat.le_refl _) h

/-- Bit k of the byte built from bits. -/
theorem getLsbD_byteOfBits (f : Nat → Bool) {k : Nat} (hk : k < 8) : (byteOfBits f).getLsbD k = f k := by
  interval_cases k <;> simp only [byteOfBits, BitVec.getLsbD_append] <;> simp

end Sys2Proof.Machine
end

