-- ==== Sys2Proof/Laws/Port.lean ====
section
/-! SUPPORT. Issuing port events: `Issued es s t` says once everything that issuing a list of events does to
the port's part of the state (TRACE, LVL, PFAIL, the answers still to come). Each operation gets one lemma
that names its list; the lists compose. -/

namespace Sys2Proof

open Sys2Proof.Machine

/-- How many of the events are calls that get an answer. -/
def calls (es : List PortEvent) : Nat := es.countP (fun e => e.role?.isSome)

@[simp] theorem calls_nil : calls [] = 0 := rfl

theorem calls_append (a b : List PortEvent) : calls (a ++ b) = calls a + calls b := List.countP_append

theorem calls_cons_call {e : PortEvent} {r : Role} (h : e.role? = some r) (es : List PortEvent) :
    calls (e :: es) = calls es + 1 := by
  rw [calls, List.countP_cons_of_pos (by simp [h]), calls]

theorem calls_cons_delay (ms : Nat) (es : List PortEvent) : calls (.delay ms :: es) = calls es :=
  List.countP_cons_of_neg (by simp [PortEvent.role?])

theorem calls_le_length (es : List PortEvent) : calls es ≤ es.length := List.countP_le_length

/-! ## Answered entries -/

@[simp] theorem answered_nil (s : State) (k : Nat) : answered s k [] = [] := rfl

theorem answered_cons_call {e : PortEvent} {r : Role} (h : e.role? = some r) (s : State) (k : Nat)
    (es : List PortEvent) : answered s k (e :: es) = ⟨e, some (s.answerAt k)⟩ :: answered s (k + 1) es := by
  simp only [answered, h]

theorem answered_cons_delay (ms : Nat) (s : State) (k : Nat) (es : List PortEvent) :
    answered s k (.delay ms :: es) = ⟨.delay ms, none⟩ :: answered s k es := rfl

theorem role?_eq_none {e : PortEvent} (h : e.role? = none) : ∃ ms, e = .delay ms := by
  cases e <;> simp [PortEvent.role?] at h
  exact ⟨_, rfl⟩

theorem answered_append (s : State) (k : Nat) (a b : List PortEvent) :
    answered s k (a ++ b) = answered s k a ++ answered s (k + calls a) b := by
  induction a generalizing k with
  | nil => simp
  | cons e a ih =>
    rw [List.cons_append]
    cases h : e.role? with
    | none =>
      obtain ⟨ms, rfl⟩ := role?_eq_none h
      rw [answered_cons_delay, answered_cons_delay, calls_cons_delay, ih, List.cons_append]
    | some r =>
      rw [answered_cons_call h, answered_cons_call h, calls_cons_call h, ih, List.cons_append,
        show k + 1 + calls a = k + (calls a + 1) by omega]

/-- Entries depend on the answers alone. -/
theorem answered_congr {s t : State} {j k : Nat} (h : ∀ i, s.answerAt (j + i) = t.answerAt (k + i))
    (es : List PortEvent) : answered s j es = answered t k es := by
  induction es generalizing j k with
  | nil => rfl
  | cons e es ih =>
    cases hr : e.role? with
    | none =>
      obtain ⟨ms, rfl⟩ := role?_eq_none hr
      rw [answered_cons_delay, answered_cons_delay, ih h]
    | some r =>
      have h0 : s.answerAt j = t.answerAt k := by simpa using h 0
      rw [answered_cons_call hr, answered_cons_call hr, h0]
      congr 1
      exact ih fun i => by simpa [Nat.add_assoc, Nat.add_comm 1 i] using h (i + 1)

theorem answered_map_event (s : State) (k : Nat) (es : List PortEvent) :
    (answered s k es).map Entry.event = es := by
  induction es generalizing k with
  | nil => rfl
  | cons e es ih =>
    cases hr : e.role? with
    | none =>
      obtain ⟨ms, rfl⟩ := role?_eq_none hr
      rw [answered_cons_delay, List.map_cons, ih]
    | some r => rw [answered_cons_call hr, List.map_cons, ih]

/-- When the port answers ok to all of them, every entry is an ok entry. -/
theorem answered_ok {s : State} {k : Nat} {es : List PortEvent}
    (h : ∀ i < calls es, s.answerAt (k + i) = .ok) : answered s k es = es.map okEntry := by
  induction es generalizing k with
  | nil => rfl
  | cons e es ih =>
    cases hr : e.role? with
    | none =>
      obtain ⟨ms, rfl⟩ := role?_eq_none hr
      rw [calls_cons_delay] at h
      rw [answered_cons_delay, List.map_cons, ih h]
      rfl
    | some r =>
      rw [calls_cons_call hr] at h
      have h0 : s.answerAt k = .ok := by simpa using h 0 (by omega)
      rw [answered_cons_call hr, List.map_cons, ih, h0, okEntry, hr]
      · rfl
      · intro i hi
        have := h (i + 1) (by omega)
        simpa [Nat.add_assoc, Nat.add_comm 1 i] using this

theorem answered_portOk {s : State} {n : Nat} {es : List PortEvent} (h : s.PortOk n) (hn : calls es ≤ n) :
    answered s 0 es = es.map okEntry :=
  answered_ok fun i hi => by simpa using h i (by omega)

/-- Ok entries report no failure. -/
theorem failedOn_ok (r : Role) (es : List PortEvent) : failedOn r (es.map okEntry) = false := by
  induction es with
  | nil => rfl
  | cons e es ih =>
    rw [failedOn] at ih ⊢
    rw [List.map_cons, List.any_cons, ih, okEntry]
    cases e <;> simp [PortEvent.role?]

theorem failedOn_append (r : Role) (a b : List Entry) : failedOn r (a ++ b) = (failedOn r a || failedOn r b) :=
  List.any_append

theorem replayLevels_append (l : Pins Level) (a b : List Entry) :
    replayLevels l (a ++ b) = replayLevels (replayLevels l a) b := List.foldl_append

/-! ## Issuing a list of events -/

/-- The port's part of t is the port's part of s after the events es were issued. -/
structure Issued (es : List PortEvent) (s t : State) : Prop where
  trace : t.trace = (answered s 0 es).reverse ++ s.trace
  lvl : t.lvl = replayLevels s.lvl (answered s 0 es)
  pfail : ∀ r, roleBit t.pfail r = (roleBit s.pfail r || failedOn r (answered s 0 es))
  answerAt : ∀ k, t.answerAt k = s.answerAt (calls es + k)

theorem Issued.refl (s : State) : Issued [] s s :=
  ⟨rfl, rfl, fun r => by simp [failedOn], fun k => by simp⟩

theorem Issued.trans {a b : List PortEvent} {s t u : State} (h : Issued a s t) (h' : Issued b t u) :
    Issued (a ++ b) s u := by
  have hb : answered t 0 b = answered s (calls a) b := by
    apply answered_congr
    intro i
    simpa using h.answerAt i
  have hab : answered s 0 (a ++ b) = answered s 0 a ++ answered t 0 b := by
    rw [answered_append, hb, Nat.zero_add]
  refine ⟨?_, ?_, fun r => ?_, fun k => ?_⟩
  · rw [h'.trace, h.trace, hab, List.reverse_append, List.append_assoc]
  · rw [h'.lvl, h.lvl, hab, replayLevels_append]
  · rw [h'.pfail, h.pfail, hab, failedOn_append, Bool.or_assoc]
  · rw [h'.answerAt, h.answerAt, calls_append, Nat.add_assoc]

/-- Only the port's fields matter on either side. -/
theorem Issued.congr {es : List PortEvent} {s t s' t' : State} (h : Issued es s t)
    (hs : s'.trace = s.trace ∧ s'.lvl = s.lvl ∧ s'.pfail = s.pfail ∧ s'.answers = s.answers ∧
      s'.portCalls = s.portCalls)
    (ht : t'.trace = t.trace ∧ t'.lvl = t.lvl ∧ t'.pfail = t.pfail ∧ t'.answers = t.answers ∧
      t'.portCalls = t.portCalls) : Issued es s' t' := by
  obtain ⟨s1, s2, s3, s4, s5⟩ := hs
  obtain ⟨t1, t2, t3, t4, t5⟩ := ht
  have ha : ∀ k, s'.answerAt k = s.answerAt k := fun k => by simp only [State.answerAt, s4, s5]
  have hb : ∀ k, t'.answerAt k = t.answerAt k := fun k => by simp only [State.answerAt, t4, t5]
  have hc : answered s' 0 es = answered s 0 es := answered_congr (fun i => ha _) es
  exact ⟨by rw [t1, s1, hc, h.trace], by rw [t2, s2, hc, h.lvl], fun r => by rw [t3, s3, hc, h.pfail],
    fun k => by rw [hb, ha, h.answerAt]⟩

/-- Changing other fields of the state after the events changes nothing of it. -/
theorem Issued.congr_right {es : List PortEvent} {s t t' : State} (h : Issued es s t)
    (ht : t'.trace = t.trace ∧ t'.lvl = t.lvl ∧ t'.pfail = t.pfail ∧ t'.answers = t.answers ∧
      t'.portCalls = t.portCalls) : Issued es s t' := h.congr ⟨rfl, rfl, rfl, rfl, rfl⟩ ht

/-- Changing other fields of the state before the events changes nothing of it. -/
theorem Issued.congr_left {es : List PortEvent} {s t s' : State} (h : Issued es s t)
    (hs : s'.trace = s.trace ∧ s'.lvl = s.lvl ∧ s'.pfail = s.pfail ∧ s'.answers = s.answers ∧
      s'.portCalls = s.portCalls) : Issued es s' t := h.congr hs ⟨rfl, rfl, rfl, rfl, rfl⟩

/-- A port primitive issues its one event. -/
theorem issued_issue (e : PortEvent) (s : State) : Issued [e] s (issue e s) := by
  cases hr : e.role? with
  | none =>
    obtain ⟨ms, rfl⟩ := role?_eq_none hr
    refine ⟨rfl, rfl, fun r => ?_, fun k => ?_⟩
    · simp [issue_delay, failedOn, answered_cons_delay, PortEvent.role?]
    · rw [issue_delay_answerAt, calls_cons_delay, calls_nil, Nat.zero_add]
  | some r =>
    have hans : answered s 0 [e] = [⟨e, some (s.answerAt 0)⟩] := by rw [answered_cons_call hr]; rfl
    refine ⟨?_, ?_, fun q => ?_, fun k => ?_⟩
    · rw [hans, issue_call hr]; rfl
    · rw [hans, issue_call hr]; rfl
    · rw [hans, issue_call hr]
      cases ha : s.answerAt 0 with
      | ok => simp [pfailAfter, failedOn]
      | fail => simp [pfailAfter, failedOn, hr, roleBit_setRoleBit, Bool.or_comm, eq_comm]
    · rw [issue_answerAt hr, calls_cons_call hr, calls_nil]
      congr 1
      omega

theorem issued_pwrite (r : Role) (v : Bool) (s : State) : Issued [.write r v] s (pwrite r v s) :=
  issued_issue ..

theorem issued_delay (ms : Nat) (s : State) : Issued [.delay ms] s (delay ms s) := issued_issue ..

theorem issued_acquirePin (r : Role) (s : State) : Issued [.acquire r] s (acquirePin r s) := by
  refine (issued_issue (.acquire r) s).congr_right ?_
  unfold acquirePin
  split <;> exact ⟨rfl, rfl, rfl, rfl, rfl⟩

theorem issued_directPin (d : PinDir) (r : Role) (s : State) :
    Issued [.setDirection r d] s (directPin d r s) := by
  refine (issued_issue (.setDirection r d) s).congr_right ?_
  unfold directPin
  split <;> exact ⟨rfl, rfl, rfl, rfl, rfl⟩

theorem issued_releasePin (r : Role) (s : State) : Issued [.release r] s (releasePin r s) :=
  (issued_issue (.release r) s).congr_right ⟨rfl, rfl, rfl, rfl, rfl⟩

/-! ## What follows from it -/

theorem Issued.events {es : List PortEvent} {s t : State} (h : Issued es s t) :
    t.events = s.events ++ answered s 0 es := by
  simp [State.events, h.trace]

/-- A command that begins with PFAIL clear has in PFAIL exactly the roles its calls failed on. -/
theorem Issued.pfail_eq_zero_iff {es : List PortEvent} {s t : State} (h : Issued es s t) (hs : s.pfail = 0#7) :
    t.pfail = 0#7 ↔ ∀ r, failedOn r (answered s 0 es) = false := by
  constructor
  · intro ht r
    have := h.pfail r
    simpa [ht, hs] using this.symm
  · intro hf
    apply roleBit_ext
    intro r
    rw [h.pfail, hs, hf]
    simp

theorem Issued.pfail_of_portOk {es : List PortEvent} {s t : State} {n : Nat} (h : Issued es s t)
    (hs : s.pfail = 0#7) (hok : s.PortOk n) (hn : calls es ≤ n) : t.pfail = 0#7 :=
  (h.pfail_eq_zero_iff hs).mpr fun r => by rw [answered_portOk hok hn, failedOn_ok]

theorem Issued.portOk {es : List PortEvent} {s t : State} {n m : Nat} (h : Issued es s t)
    (hok : s.PortOk n) (hn : calls es + m ≤ n) : t.PortOk m := fun k hk => by
  rw [h.answerAt]
  exact hok _ (by omega)

/-- An event that is about no pin r leaves LVL of r. -/
theorem levelsAfter_get_of_ne {e : PortEvent} {r : Role} (h : e.role? ≠ some r) (a : Answer) (l : Pins Level) :
    (levelsAfter e a l).get r = l.get r := by
  cases e <;> simp only [PortEvent.role?, ne_eq, Option.some.injEq] at h <;> try rfl
  case acquire q => exact Pins.get_set_of_ne _ _ (Ne.symm h)
  case release q => exact Pins.get_set_of_ne _ _ (Ne.symm h)
  case setDirection q d => exact Pins.get_set_of_ne _ _ (Ne.symm h)
  case write q v => cases a <;> exact Pins.get_set_of_ne _ _ (Ne.symm h)

theorem replayLevels_get_of_ne {r : Role} {es : List Entry} (h : ∀ x ∈ es, x.event.role? ≠ some r)
    (l : Pins Level) : (replayLevels l es).get r = l.get r := by
  induction es generalizing l with
  | nil => rfl
  | cons x es ih =>
    have hx := h x (List.mem_cons_self ..)
    have hes := fun y hy => h y (List.mem_cons_of_mem _ hy)
    have : replayLevels l (x :: es) =
        replayLevels (match x.answer with | some a => levelsAfter x.event a l | none => l) es := rfl
    rw [this, ih hes]
    split
    · exact levelsAfter_get_of_ne hx _ _
    · rfl

theorem Issued.lvl_get_of_ne {es : List PortEvent} {s t : State} {r : Role} (h : Issued es s t)
    (hr : ∀ e ∈ es, e.role? ≠ some r) : t.lvl.get r = s.lvl.get r := by
  rw [h.lvl]
  apply replayLevels_get_of_ne
  intro x hx
  apply hr
  have := List.mem_map_of_mem (f := Entry.event) hx
  rwa [answered_map_event] at this

/-- The entries of a command do not depend on where its PFAIL starts. -/
@[simp] theorem answered_beginCommand (s : State) (k : Nat) (es : List PortEvent) :
    answered (beginCommand s) k es = answered s k es := answered_congr (s := beginCommand s) (t := s) (fun _ => rfl) es

/-- What a whole command leaves of the port, from the state before it. -/
theorem Issued.command {es : List PortEvent} {s t : State} (h : Issued es (beginCommand s) t) :
    t.events = s.events ++ answered s 0 es ∧ t.lvl = replayLevels s.lvl (answered s 0 es) ∧
      ∀ r, roleBit t.pfail r = failedOn r (answered s 0 es) := by
  refine ⟨?_, ?_, fun r => ?_⟩
  · simpa [State.events] using h.events
  · simpa using h.lvl
  · simpa using h.pfail r

/-- Some call among the events failed exactly when some role is reported. -/
theorem failedOn_of_fail {s : State} {es : List PortEvent} {n k : Nat} (hk : k < calls es)
    (hf : s.answerAt (n + k) = .fail) : ∃ r, failedOn r (answered s n es) = true := by
  induction es generalizing n k with
  | nil => simp at hk
  | cons e es ih =>
    cases hr : e.role? with
    | none =>
      obtain ⟨ms, rfl⟩ := role?_eq_none hr
      rw [calls_cons_delay] at hk
      obtain ⟨r, h⟩ := ih hk hf
      exact ⟨r, by rw [answered_cons_delay, failedOn, List.any_cons, ← failedOn, h, Bool.or_true]⟩
    | some q =>
      rw [calls_cons_call hr] at hk
      cases k with
      | zero => exact ⟨q, by rw [answered_cons_call hr, failedOn, List.any_cons]; simpa [hr] using .inl hf⟩
      | succ k =>
        obtain ⟨r, h⟩ := ih (n := n + 1) (k := k) (by omega) (by rw [← hf]; congr 1; omega)
        exact ⟨r, by rw [answered_cons_call hr, failedOn, List.any_cons, ← failedOn, h, Bool.or_true]⟩

theorem fail_of_failedOn {s : State} {es : List PortEvent} {n : Nat} {r : Role}
    (h : failedOn r (answered s n es) = true) : ∃ k < calls es, s.answerAt (n + k) = .fail := by
  by_contra hc
  have hok : ∀ i < calls es, s.answerAt (n + i) = .ok := fun i hi => by
    cases ha : s.answerAt (n + i) with
    | ok => rfl
    | fail => exact absurd ⟨i, hi, ha⟩ hc
  rw [answered_ok hok, failedOn_ok] at h
  cases h

/-- PFAIL is clear after a command's events exactly when every call was answered ok. -/
theorem Issued.pfail_eq_zero_iff_ok {es : List PortEvent} {s t : State} (h : Issued es (beginCommand s) t) :
    t.pfail = 0#7 ↔ ∀ k < calls es, s.answerAt k = .ok := by
  rw [h.pfail_eq_zero_iff rfl]
  simp only [answered_beginCommand]
  constructor
  · intro hf k hk
    cases ha : s.answerAt k with
    | ok => rfl
    | fail =>
      obtain ⟨r, hr⟩ := failedOn_of_fail (n := 0) hk (by simpa using ha)
      rw [hf r] at hr
      cases hr
  · intro hok r
    rw [answered_ok (by simpa using hok), failedOn_ok]

/-- Events grow TRACE by as many entries. -/
theorem Issued.trace_length {es : List PortEvent} {s t : State} (h : Issued es s t) :
    t.trace.length = s.trace.length + es.length := by
  have := congrArg List.length (answered_map_event s 0 es)
  rw [List.length_map] at this
  rw [h.trace, List.length_append, List.length_reverse, this, Nat.add_comm]

/-! ## Loops -/

theorem forEach_zero (f : Fin 0 → State → State) (s : State) : forEach 0 f s = s := rfl

/-- A loop keeps what each of its turns keeps. -/
theorem forEach_keeps {n : Nat} {f : Fin n → State → State} {P : State → Prop} (h : ∀ i t, P t → P (f i t))
    {s : State} (hs : P s) : P (forEach n f s) := by
  unfold forEach
  induction List.finRange n generalizing s with
  | nil => exact hs
  | cons i is ih => exact ih (h i s hs)

/-- A loop leaves what each of its turns leaves. -/
theorem forEach_same {n : Nat} {f : Fin n → State → State} {α : Type} (g : State → α)
    (h : ∀ i t, g (f i t) = g t) (s : State) : g (forEach n f s) = g s :=
  forEach_keeps (P := fun t => g t = g s) (fun i t ht => (h i t).trans ht) rfl

/-- A loop issues the events of its turns, in order; Q is what the turns rely on and keep. -/
theorem issued_forEach {n : Nat} {f : Fin n → State → State} {ev : Fin n → List PortEvent} {Q : State → Prop}
    (hf : ∀ i t, Q t → Issued (ev i) t (f i t)) (hQ : ∀ i t, Q t → Q (f i t)) {s : State} (hs : Q s) :
    Issued ((List.finRange n).flatMap ev) s (forEach n f s) := by
  unfold forEach
  induction List.finRange n generalizing s with
  | nil => exact Issued.refl s
  | cons i is ih =>
    rw [List.flatMap_cons, List.foldl_cons]
    exact (hf i s hs).trans (ih (hQ i s hs))

/-- A loop appends to WIRE what its turns append, in order. -/
theorem wireLog_forEach {n : Nat} {f : Fin n → State → State} {ev : Fin n → List WireEntry} {Q : State → Prop}
    (hf : ∀ i t, Q t → (f i t).wireLog = t.wireLog ++ ev i) (hQ : ∀ i t, Q t → Q (f i t)) {s : State}
    (hs : Q s) : (forEach n f s).wireLog = s.wireLog ++ (List.finRange n).flatMap ev := by
  unfold forEach
  induction List.finRange n generalizing s with
  | nil => simp
  | cons i is ih =>
    rw [List.flatMap_cons, List.foldl_cons, ih (hQ i s hs), hf i s hs, List.append_assoc]

/-- A batch over roles keeps what each of its calls keeps. -/
theorem forRoles_keeps {rs : List Role} {f : Role → State → State} {P : State → Prop}
    (h : ∀ r t, P t → P (f r t)) {s : State} (hs : P s) : P (forRoles rs f s) := by
  unfold forRoles
  induction rs generalizing s with
  | nil => exact hs
  | cons r rs ih => exact ih (h r s hs)

theorem forRoles_same {rs : List Role} {f : Role → State → State} {α : Type} (g : State → α)
    (h : ∀ r t, g (f r t) = g t) (s : State) : g (forRoles rs f s) = g s :=
  forRoles_keeps (P := fun t => g t = g s) (fun r t ht => (h r t).trans ht) rfl

/-- A batch issues the events of its calls, in order. -/
theorem issued_forRoles {rs : List Role} {f : Role → State → State} {ev : Role → PortEvent}
    (hf : ∀ r t, Issued [ev r] t (f r t)) (s : State) : Issued (rs.map ev) s (forRoles rs f s) := by
  unfold forRoles
  induction rs generalizing s with
  | nil => exact Issued.refl s
  | cons r rs ih => exact (hf r s).trans (ih (f r s))

end Sys2Proof
end

