-- ==== Sys2Proof/Laws/Transport.lean ====
section
/-! SUPPORT. The serializer: the events of one `writeByte`, what it leaves in its working registers and in
WIRE, and that it changes nothing else; the same of `sendByte` and `preamble`. -/

namespace Sys2Proof

open Sys2Proof.Machine

namespace Machine

@[simp] theorem pwrite_life (r : Role) (v : Bool) (s : State) : (pwrite r v s).life = s.life := issue_life _ _

@[simp] theorem pwrite_inited (r : Role) (v : Bool) (s : State) : (pwrite r v s).inited = s.inited := issue_inited _ _

@[simp] theorem pwrite_acq (r : Role) (v : Bool) (s : State) : (pwrite r v s).acq = s.acq := issue_acq _ _

@[simp] theorem pwrite_dir (r : Role) (v : Bool) (s : State) : (pwrite r v s).dir = s.dir := issue_dir _ _

@[simp] theorem pwrite_sdreq (r : Role) (v : Bool) (s : State) : (pwrite r v s).sdreq = s.sdreq := issue_sdreq _ _

@[simp] theorem pwrite_lastres (r : Role) (v : Bool) (s : State) : (pwrite r v s).lastres = s.lastres := issue_lastres _ _

@[simp] theorem pwrite_sr (r : Role) (v : Bool) (s : State) : (pwrite r v s).sr = s.sr := issue_sr _ _

@[simp] theorem pwrite_clkv (r : Role) (v : Bool) (s : State) : (pwrite r v s).clkv = s.clkv := issue_clkv _ _

@[simp] theorem pwrite_bitn (r : Role) (v : Bool) (s : State) : (pwrite r v s).bitn = s.bitn := issue_bitn _ _

@[simp] theorem pwrite_page (r : Role) (v : Bool) (s : State) : (pwrite r v s).page = s.page := issue_page _ _

@[simp] theorem pwrite_col (r : Role) (v : Bool) (s : State) : (pwrite r v s).col = s.col := issue_col _ _

@[simp] theorem pwrite_initi (r : Role) (v : Bool) (s : State) : (pwrite r v s).initi = s.initi := issue_initi _ _

@[simp] theorem pwrite_chi (r : Role) (v : Bool) (s : State) : (pwrite r v s).chi = s.chi := issue_chi _ _

@[simp] theorem pwrite_gcol (r : Role) (v : Bool) (s : State) : (pwrite r v s).gcol = s.gcol := issue_gcol _ _

@[simp] theorem pwrite_pb (r : Role) (v : Bool) (s : State) : (pwrite r v s).pb = s.pb := issue_pb _ _

@[simp] theorem pwrite_fb (r : Role) (v : Bool) (s : State) : (pwrite r v s).fb = s.fb := issue_fb _ _

@[simp] theorem pwrite_tx (r : Role) (v : Bool) (s : State) : (pwrite r v s).tx = s.tx := issue_tx _ _

@[simp] theorem pwrite_wire (r : Role) (v : Bool) (s : State) : (pwrite r v s).wire = s.wire := issue_wire _ _

@[simp] theorem pwrite_params (r : Role) (v : Bool) (s : State) : (pwrite r v s).params = s.params := issue_params _ _

@[simp] theorem pwrite_inbox (r : Role) (v : Bool) (s : State) : (pwrite r v s).inbox = s.inbox := issue_inbox _ _

@[simp] theorem delay_life (ms : Nat) (s : State) : (delay ms s).life = s.life := issue_life _ _

@[simp] theorem delay_inited (ms : Nat) (s : State) : (delay ms s).inited = s.inited := issue_inited _ _

@[simp] theorem delay_acq (ms : Nat) (s : State) : (delay ms s).acq = s.acq := issue_acq _ _

@[simp] theorem delay_dir (ms : Nat) (s : State) : (delay ms s).dir = s.dir := issue_dir _ _

@[simp] theorem delay_sdreq (ms : Nat) (s : State) : (delay ms s).sdreq = s.sdreq := issue_sdreq _ _

@[simp] theorem delay_lastres (ms : Nat) (s : State) : (delay ms s).lastres = s.lastres := issue_lastres _ _

@[simp] theorem delay_sr (ms : Nat) (s : State) : (delay ms s).sr = s.sr := issue_sr _ _

@[simp] theorem delay_clkv (ms : Nat) (s : State) : (delay ms s).clkv = s.clkv := issue_clkv _ _

@[simp] theorem delay_bitn (ms : Nat) (s : State) : (delay ms s).bitn = s.bitn := issue_bitn _ _

@[simp] theorem delay_page (ms : Nat) (s : State) : (delay ms s).page = s.page := issue_page _ _

@[simp] theorem delay_col (ms : Nat) (s : State) : (delay ms s).col = s.col := issue_col _ _

@[simp] theorem delay_initi (ms : Nat) (s : State) : (delay ms s).initi = s.initi := issue_initi _ _

@[simp] theorem delay_chi (ms : Nat) (s : State) : (delay ms s).chi = s.chi := issue_chi _ _

@[simp] theorem delay_gcol (ms : Nat) (s : State) : (delay ms s).gcol = s.gcol := issue_gcol _ _

@[simp] theorem delay_pb (ms : Nat) (s : State) : (delay ms s).pb = s.pb := issue_pb _ _

@[simp] theorem delay_fb (ms : Nat) (s : State) : (delay ms s).fb = s.fb := issue_fb _ _

@[simp] theorem delay_tx (ms : Nat) (s : State) : (delay ms s).tx = s.tx := issue_tx _ _

@[simp] theorem delay_wire (ms : Nat) (s : State) : (delay ms s).wire = s.wire := issue_wire _ _

@[simp] theorem delay_params (ms : Nat) (s : State) : (delay ms s).params = s.params := issue_params _ _

@[simp] theorem delay_inbox (ms : Nat) (s : State) : (delay ms s).inbox = s.inbox := issue_inbox _ _

@[simp] theorem driveClock_life (v : Bool) (s : State) : (driveClock v s).life = s.life := by simp [driveClock]

@[simp] theorem driveClock_inited (v : Bool) (s : State) : (driveClock v s).inited = s.inited := by simp [driveClock]

@[simp] theorem driveClock_acq (v : Bool) (s : State) : (driveClock v s).acq = s.acq := by simp [driveClock]

@[simp] theorem driveClock_dir (v : Bool) (s : State) : (driveClock v s).dir = s.dir := by simp [driveClock]

@[simp] theorem driveClock_sdreq (v : Bool) (s : State) : (driveClock v s).sdreq = s.sdreq := by simp [driveClock]

@[simp] theorem driveClock_lastres (v : Bool) (s : State) : (driveClock v s).lastres = s.lastres := by simp [driveClock]

@[simp] theorem driveClock_sr (v : Bool) (s : State) : (driveClock v s).sr = s.sr := by simp [driveClock]

@[simp] theorem driveClock_bitn (v : Bool) (s : State) : (driveClock v s).bitn = s.bitn := by simp [driveClock]

@[simp] theorem driveClock_page (v : Bool) (s : State) : (driveClock v s).page = s.page := by simp [driveClock]

@[simp] theorem driveClock_col (v : Bool) (s : State) : (driveClock v s).col = s.col := by simp [driveClock]

@[simp] theorem driveClock_initi (v : Bool) (s : State) : (driveClock v s).initi = s.initi := by simp [driveClock]

@[simp] theorem driveClock_chi (v : Bool) (s : State) : (driveClock v s).chi = s.chi := by simp [driveClock]

@[simp] theorem driveClock_gcol (v : Bool) (s : State) : (driveClock v s).gcol = s.gcol := by simp [driveClock]

@[simp] theorem driveClock_pb (v : Bool) (s : State) : (driveClock v s).pb = s.pb := by simp [driveClock]

@[simp] theorem driveClock_fb (v : Bool) (s : State) : (driveClock v s).fb = s.fb := by simp [driveClock]

@[simp] theorem driveClock_tx (v : Bool) (s : State) : (driveClock v s).tx = s.tx := by simp [driveClock]

@[simp] theorem driveClock_wire (v : Bool) (s : State) : (driveClock v s).wire = s.wire := by simp [driveClock]

@[simp] theorem driveClock_params (v : Bool) (s : State) : (driveClock v s).params = s.params := by simp [driveClock]

@[simp] theorem driveClock_inbox (v : Bool) (s : State) : (driveClock v s).inbox = s.inbox := by simp [driveClock]

@[simp] theorem driveClock_clkv (v : Bool) (s : State) : (driveClock v s).clkv = v := by simp [driveClock]

@[simp] theorem toggleClock_clkv (s : State) : (toggleClock s).clkv = !s.clkv := by simp [toggleClock]

@[simp] theorem bitSlot_clkv (o : BitOrder) (i : Fin 8) (s : State) : (bitSlot o i s).clkv = s.clkv := by
  simp [bitSlot]

@[simp] theorem bitSlot_sr (o : BitOrder) (i : Fin 8) (s : State) : (bitSlot o i s).sr = shiftOut o s.sr := by
  simp [bitSlot, toggleClock]

@[simp] theorem bitSlot_bitn (o : BitOrder) (i : Fin 8) (s : State) : (bitSlot o i s).bitn = i := by
  simp [bitSlot, toggleClock]

@[simp] theorem bitSlot_life (o : BitOrder) (i : Fin 8) (s : State) : (bitSlot o i s).life = s.life := by simp [bitSlot, toggleClock]

@[simp] theorem bitSlot_inited (o : BitOrder) (i : Fin 8) (s : State) : (bitSlot o i s).inited = s.inited := by simp [bitSlot, toggleClock]

@[simp] theorem bitSlot_acq (o : BitOrder) (i : Fin 8) (s : State) : (bitSlot o i s).acq = s.acq := by simp [bitSlot, toggleClock]

@[simp] theorem bitSlot_dir (o : BitOrder) (i : Fin 8) (s : State) : (bitSlot o i s).dir = s.dir := by simp [bitSlot, toggleClock]

@[simp] theorem bitSlot_sdreq (o : BitOrder) (i : Fin 8) (s : State) : (bitSlot o i s).sdreq = s.sdreq := by simp [bitSlot, toggleClock]

@[simp] theorem bitSlot_lastres (o : BitOrder) (i : Fin 8) (s : State) : (bitSlot o i s).lastres = s.lastres := by simp [bitSlot, toggleClock]

@[simp] theorem bitSlot_page (o : BitOrder) (i : Fin 8) (s : State) : (bitSlot o i s).page = s.page := by simp [bitSlot, toggleClock]

@[simp] theorem bitSlot_col (o : BitOrder) (i : Fin 8) (s : State) : (bitSlot o i s).col = s.col := by simp [bitSlot, toggleClock]

@[simp] theorem bitSlot_initi (o : BitOrder) (i : Fin 8) (s : State) : (bitSlot o i s).initi = s.initi := by simp [bitSlot, toggleClock]

@[simp] theorem bitSlot_chi (o : BitOrder) (i : Fin 8) (s : State) : (bitSlot o i s).chi = s.chi := by simp [bitSlot, toggleClock]

@[simp] theorem bitSlot_gcol (o : BitOrder) (i : Fin 8) (s : State) : (bitSlot o i s).gcol = s.gcol := by simp [bitSlot, toggleClock]

@[simp] theorem bitSlot_pb (o : BitOrder) (i : Fin 8) (s : State) : (bitSlot o i s).pb = s.pb := by simp [bitSlot, toggleClock]

@[simp] theorem bitSlot_fb (o : BitOrder) (i : Fin 8) (s : State) : (bitSlot o i s).fb = s.fb := by simp [bitSlot, toggleClock]

@[simp] theorem bitSlot_tx (o : BitOrder) (i : Fin 8) (s : State) : (bitSlot o i s).tx = s.tx := by simp [bitSlot, toggleClock]

@[simp] theorem bitSlot_wire (o : BitOrder) (i : Fin 8) (s : State) : (bitSlot o i s).wire = s.wire := by simp [bitSlot, toggleClock]

@[simp] theorem bitSlot_params (o : BitOrder) (i : Fin 8) (s : State) : (bitSlot o i s).params = s.params := by simp [bitSlot, toggleClock]

@[simp] theorem bitSlot_inbox (o : BitOrder) (i : Fin 8) (s : State) : (bitSlot o i s).inbox = s.inbox := by simp [bitSlot, toggleClock]

end Machine

/-- The eight turns of the bit loop, written out. -/
theorem forEach_eight (f : Fin 8 → State → State) (s : State) :
    forEach 8 f s = f 7 (f 6 (f 5 (f 4 (f 3 (f 2 (f 1 (f 0 s))))))) := by
  simp [forEach, List.finRange_succ]

/-- The level the clock has before each bit slot of a byte. -/
theorem slotLevel_eq (m : SpiMode) :
    slotLevel m = if modePha m = preflipPhase then !(modePol m) else modePol m := by
  unfold slotLevel preflips
  by_cases h : modePha m = preflipPhase <;> simp [h]

theorem issued_driveClock (v : Bool) (s : State) : Issued [.write .clk v] s (driveClock v s) :=
  (issued_pwrite .clk v { s with clkv := v }).congr_left ⟨rfl, rfl, rfl, rfl, rfl⟩

theorem issued_toggleClock (s : State) : Issued [.write .clk (!s.clkv)] s (toggleClock s) :=
  issued_driveClock ..

theorem issued_bitSlot (o : BitOrder) (i : Fin 8) (s : State) :
    Issued [.write .mosi (outBit o s.sr), .write .clk (!s.clkv), .write .clk s.clkv] s (bitSlot o i s) := by
  have h1 := (issued_pwrite .mosi (outBit o s.sr) { s with bitn := i }).congr_left (s' := s)
    ⟨rfl, rfl, rfl, rfl, rfl⟩
  have h2 := issued_toggleClock (pwrite .mosi (outBit o s.sr) { s with bitn := i })
  have h3 := issued_toggleClock (toggleClock (pwrite .mosi (outBit o s.sr) { s with bitn := i }))
  rw [pwrite_clkv] at h2
  rw [toggleClock_clkv, pwrite_clkv, Bool.not_not] at h3
  exact ((h1.trans h2).trans h3).congr_right ⟨rfl, rfl, rfl, rfl, rfl⟩

/-- The bits the eight shifts bring to the output are the bits of the byte in the order R83 says. -/
theorem outBits (o : BitOrder) (v : Byte) :
    [outBit o v, outBit o (shiftOut o v), outBit o (shiftOut o (shiftOut o v)),
      outBit o (shiftOut o (shiftOut o (shiftOut o v))),
      outBit o (shiftOut o (shiftOut o (shiftOut o (shiftOut o v)))),
      outBit o (shiftOut o (shiftOut o (shiftOut o (shiftOut o (shiftOut o v))))),
      outBit o (shiftOut o (shiftOut o (shiftOut o (shiftOut o (shiftOut o (shiftOut o v)))))),
      outBit o (shiftOut o (shiftOut o (shiftOut o (shiftOut o (shiftOut o (shiftOut o (shiftOut o v)))))))] =
    bitsInOrder o v := by
  cases o <;> simp [outBit, shiftOut, bitsInOrder]

/-- "After the eighth shift SR is 0x00 in either order" (`40_spi_transport.md` R83). -/
theorem shiftOut_eight (o : BitOrder) (v : Byte) :
    shiftOut o (shiftOut o (shiftOut o (shiftOut o (shiftOut o (shiftOut o (shiftOut o (shiftOut o v))))))) =
      0#8 := by
  cases o <;> simp only [shiftOut] <;> decide +revert

theorem issued_bits (o : BitOrder) (s : State) :
    Issued ((bitsInOrder o s.sr).flatMap fun b => [.write .mosi b, .write .clk (!s.clkv), .write .clk s.clkv])
      s (forEach 8 (bitSlot o) s) := by
  rw [forEach_eight, ← outBits]
  have h := fun i t => issued_bitSlot o i t
  have h0 := h 0 s
  have h1 := h0.trans (h 1 _)
  have h2 := h1.trans (h 2 _)
  have h3 := h2.trans (h 3 _)
  have h4 := h3.trans (h 4 _)
  have h5 := h4.trans (h 5 _)
  have h6 := h5.trans (h 6 _)
  have h7 := h6.trans (h 7 _)
  simpa using h7

/-- The events of one `writeByte` (`40_spi_transport.md` R82 to R84), whatever the port answers. -/
theorem issued_writeByte (v : Byte) (m : SpiMode) (o : BitOrder) (s : State) :
    Issued (byteEvents v m o) s (writeByte v m o s) := by
  unfold writeByte
  generalize hs0 : ({ s with wire := ⟨s.lvl.dc, v, m, o⟩ :: s.wire, sr := v } : State) = s0
  have hsr : s0.sr = v := by rw [← hs0]
  have h0 : Issued [.write .clk (modePol m)] s (driveClock (modePol m) s0) :=
    (issued_driveClock ..).congr_left (by rw [← hs0]; exact ⟨rfl, rfl, rfl, rfl, rfl⟩)
  by_cases hp : modePha m = preflipPhase
  · have h1 := h0.trans (issued_toggleClock _)
    have h2 := h1.trans (issued_bits o _)
    have h3 := h2.trans (issued_driveClock (modePol m) _)
    have hslot : slotEvents m = fun b =>
        [.write .mosi b, .write .clk (modePol m), .write .clk (!(modePol m))] := by
      funext b; simp [slotEvents, slotLevel_eq, hp]
    simpa [hp, byteEvents, preflips, hslot, hsr, toggleClock] using h3
  · have h2 := h0.trans (issued_bits o _)
    have h3 := h2.trans (issued_driveClock (modePol m) _)
    have hslot : slotEvents m = fun b =>
        [.write .mosi b, .write .clk (!(modePol m)), .write .clk (modePol m)] := by
      funext b; simp [slotEvents, slotLevel_eq, hp]
    simpa [hp, byteEvents, preflips, hslot, hsr] using h3

namespace Machine

@[simp] theorem writeByte_life (v : Byte) (m : SpiMode) (o : BitOrder) (s : State) : (writeByte v m o s).life = s.life := by
  unfold writeByte; split <;> simp [forEach_eight, toggleClock]

@[simp] theorem writeByte_inited (v : Byte) (m : SpiMode) (o : BitOrder) (s : State) : (writeByte v m o s).inited = s.inited := by
  unfold writeByte; split <;> simp [forEach_eight, toggleClock]

@[simp] theorem writeByte_acq (v : Byte) (m : SpiMode) (o : BitOrder) (s : State) : (writeByte v m o s).acq = s.acq := by
  unfold writeByte; split <;> simp [forEach_eight, toggleClock]

@[simp] theorem writeByte_dir (v : Byte) (m : SpiMode) (o : BitOrder) (s : State) : (writeByte v m o s).dir = s.dir := by
  unfold writeByte; split <;> simp [forEach_eight, toggleClock]

@[simp] theorem writeByte_sdreq (v : Byte) (m : SpiMode) (o : BitOrder) (s : State) : (writeByte v m o s).sdreq = s.sdreq := by
  unfold writeByte; split <;> simp [forEach_eight, toggleClock]

@[simp] theorem writeByte_lastres (v : Byte) (m : SpiMode) (o : BitOrder) (s : State) : (writeByte v m o s).lastres = s.lastres := by
  unfold writeByte; split <;> simp [forEach_eight, toggleClock]

@[simp] theorem writeByte_page (v : Byte) (m : SpiMode) (o : BitOrder) (s : State) : (writeByte v m o s).page = s.page := by
  unfold writeByte; split <;> simp [forEach_eight, toggleClock]

@[simp] theorem writeByte_col (v : Byte) (m : SpiMode) (o : BitOrder) (s : State) : (writeByte v m o s).col = s.col := by
  unfold writeByte; split <;> simp [forEach_eight, toggleClock]

@[simp] theorem writeByte_initi (v : Byte) (m : SpiMode) (o : BitOrder) (s : State) : (writeByte v m o s).initi = s.initi := by
  unfold writeByte; split <;> simp [forEach_eight, toggleClock]

@[simp] theorem writeByte_chi (v : Byte) (m : SpiMode) (o : BitOrder) (s : State) : (writeByte v m o s).chi = s.chi := by
  unfold writeByte; split <;> simp [forEach_eight, toggleClock]

@[simp] theorem writeByte_gcol (v : Byte) (m : SpiMode) (o : BitOrder) (s : State) : (writeByte v m o s).gcol = s.gcol := by
  unfold writeByte; split <;> simp [forEach_eight, toggleClock]

@[simp] theorem writeByte_pb (v : Byte) (m : SpiMode) (o : BitOrder) (s : State) : (writeByte v m o s).pb = s.pb := by
  unfold writeByte; split <;> simp [forEach_eight, toggleClock]

@[simp] theorem writeByte_fb (v : Byte) (m : SpiMode) (o : BitOrder) (s : State) : (writeByte v m o s).fb = s.fb := by
  unfold writeByte; split <;> simp [forEach_eight, toggleClock]

@[simp] theorem writeByte_tx (v : Byte) (m : SpiMode) (o : BitOrder) (s : State) : (writeByte v m o s).tx = s.tx := by
  unfold writeByte; split <;> simp [forEach_eight, toggleClock]

@[simp] theorem writeByte_params (v : Byte) (m : SpiMode) (o : BitOrder) (s : State) : (writeByte v m o s).params = s.params := by
  unfold writeByte; split <;> simp [forEach_eight, toggleClock]

@[simp] theorem writeByte_inbox (v : Byte) (m : SpiMode) (o : BitOrder) (s : State) : (writeByte v m o s).inbox = s.inbox := by
  unfold writeByte; split <;> simp [forEach_eight, toggleClock]

@[simp] theorem writeByte_clkv (v : Byte) (m : SpiMode) (o : BitOrder) (s : State) :
    (writeByte v m o s).clkv = modePol m := by unfold writeByte; simp

@[simp] theorem writeByte_sr (v : Byte) (m : SpiMode) (o : BitOrder) (s : State) :
    (writeByte v m o s).sr = 0#8 := by
  unfold writeByte; split <;> simp [forEach_eight, toggleClock, shiftOut_eight]

@[simp] theorem writeByte_bitn (v : Byte) (m : SpiMode) (o : BitOrder) (s : State) :
    (writeByte v m o s).bitn = 7 := by unfold writeByte; split <;> simp [forEach_eight]

@[simp] theorem writeByte_wire (v : Byte) (m : SpiMode) (o : BitOrder) (s : State) :
    (writeByte v m o s).wire = ⟨s.lvl.dc, v, m, o⟩ :: s.wire := by
  unfold writeByte; split <;> simp [forEach_eight, toggleClock]

@[simp] theorem sendByte_life (v : Byte) (s : State) : (sendByte v s).life = s.life := writeByte_life _ _ _ _

@[simp] theorem sendByte_inited (v : Byte) (s : State) : (sendByte v s).inited = s.inited := writeByte_inited _ _ _ _

@[simp] theorem sendByte_acq (v : Byte) (s : State) : (sendByte v s).acq = s.acq := writeByte_acq _ _ _ _

@[simp] theorem sendByte_dir (v : Byte) (s : State) : (sendByte v s).dir = s.dir := writeByte_dir _ _ _ _

@[simp] theorem sendByte_sdreq (v : Byte) (s : State) : (sendByte v s).sdreq = s.sdreq := writeByte_sdreq _ _ _ _

@[simp] theorem sendByte_lastres (v : Byte) (s : State) : (sendByte v s).lastres = s.lastres := writeByte_lastres _ _ _ _

@[simp] theorem sendByte_page (v : Byte) (s : State) : (sendByte v s).page = s.page := writeByte_page _ _ _ _

@[simp] theorem sendByte_col (v : Byte) (s : State) : (sendByte v s).col = s.col := writeByte_col _ _ _ _

@[simp] theorem sendByte_initi (v : Byte) (s : State) : (sendByte v s).initi = s.initi := writeByte_initi _ _ _ _

@[simp] theorem sendByte_chi (v : Byte) (s : State) : (sendByte v s).chi = s.chi := writeByte_chi _ _ _ _

@[simp] theorem sendByte_gcol (v : Byte) (s : State) : (sendByte v s).gcol = s.gcol := writeByte_gcol _ _ _ _

@[simp] theorem sendByte_pb (v : Byte) (s : State) : (sendByte v s).pb = s.pb := writeByte_pb _ _ _ _

@[simp] theorem sendByte_fb (v : Byte) (s : State) : (sendByte v s).fb = s.fb := writeByte_fb _ _ _ _

@[simp] theorem sendByte_tx (v : Byte) (s : State) : (sendByte v s).tx = s.tx := writeByte_tx _ _ _ _

@[simp] theorem sendByte_params (v : Byte) (s : State) : (sendByte v s).params = s.params := writeByte_params _ _ _ _

@[simp] theorem sendByte_inbox (v : Byte) (s : State) : (sendByte v s).inbox = s.inbox := writeByte_inbox _ _ _ _

@[simp] theorem sendByte_wire (v : Byte) (s : State) :
    (sendByte v s).wire = ⟨s.lvl.dc, v, s.params.cfgMode, s.params.cfgOrder⟩ :: s.wire := writeByte_wire ..

@[simp] theorem sendSetPage_life (p : BitVec 3) (s : State) : (sendSetPage p s).life = s.life := sendByte_life _ _

@[simp] theorem sendSetPage_inited (p : BitVec 3) (s : State) : (sendSetPage p s).inited = s.inited := sendByte_inited _ _

@[simp] theorem sendSetPage_acq (p : BitVec 3) (s : State) : (sendSetPage p s).acq = s.acq := sendByte_acq _ _

@[simp] theorem sendSetPage_dir (p : BitVec 3) (s : State) : (sendSetPage p s).dir = s.dir := sendByte_dir _ _

@[simp] theorem sendSetPage_sdreq (p : BitVec 3) (s : State) : (sendSetPage p s).sdreq = s.sdreq := sendByte_sdreq _ _

@[simp] theorem sendSetPage_lastres (p : BitVec 3) (s : State) : (sendSetPage p s).lastres = s.lastres := sendByte_lastres _ _

@[simp] theorem sendSetPage_page (p : BitVec 3) (s : State) : (sendSetPage p s).page = s.page := sendByte_page _ _

@[simp] theorem sendSetPage_col (p : BitVec 3) (s : State) : (sendSetPage p s).col = s.col := sendByte_col _ _

@[simp] theorem sendSetPage_initi (p : BitVec 3) (s : State) : (sendSetPage p s).initi = s.initi := sendByte_initi _ _

@[simp] theorem sendSetPage_chi (p : BitVec 3) (s : State) : (sendSetPage p s).chi = s.chi := sendByte_chi _ _

@[simp] theorem sendSetPage_gcol (p : BitVec 3) (s : State) : (sendSetPage p s).gcol = s.gcol := sendByte_gcol _ _

@[simp] theorem sendSetPage_pb (p : BitVec 3) (s : State) : (sendSetPage p s).pb = s.pb := sendByte_pb _ _

@[simp] theorem sendSetPage_fb (p : BitVec 3) (s : State) : (sendSetPage p s).fb = s.fb := sendByte_fb _ _

@[simp] theorem sendSetPage_tx (p : BitVec 3) (s : State) : (sendSetPage p s).tx = s.tx := sendByte_tx _ _

@[simp] theorem sendSetPage_params (p : BitVec 3) (s : State) : (sendSetPage p s).params = s.params := sendByte_params _ _

@[simp] theorem sendSetPage_inbox (p : BitVec 3) (s : State) : (sendSetPage p s).inbox = s.inbox := sendByte_inbox _ _

@[simp] theorem sendSetColLo_life (s : State) : (sendSetColLo s).life = s.life := sendByte_life _ _

@[simp] theorem sendSetColLo_inited (s : State) : (sendSetColLo s).inited = s.inited := sendByte_inited _ _

@[simp] theorem sendSetColLo_acq (s : State) : (sendSetColLo s).acq = s.acq := sendByte_acq _ _

@[simp] theorem sendSetColLo_dir (s : State) : (sendSetColLo s).dir = s.dir := sendByte_dir _ _

@[simp] theorem sendSetColLo_sdreq (s : State) : (sendSetColLo s).sdreq = s.sdreq := sendByte_sdreq _ _

@[simp] theorem sendSetColLo_lastres (s : State) : (sendSetColLo s).lastres = s.lastres := sendByte_lastres _ _

@[simp] theorem sendSetColLo_page (s : State) : (sendSetColLo s).page = s.page := sendByte_page _ _

@[simp] theorem sendSetColLo_col (s : State) : (sendSetColLo s).col = s.col := sendByte_col _ _

@[simp] theorem sendSetColLo_initi (s : State) : (sendSetColLo s).initi = s.initi := sendByte_initi _ _

@[simp] theorem sendSetColLo_chi (s : State) : (sendSetColLo s).chi = s.chi := sendByte_chi _ _

@[simp] theorem sendSetColLo_gcol (s : State) : (sendSetColLo s).gcol = s.gcol := sendByte_gcol _ _

@[simp] theorem sendSetColLo_pb (s : State) : (sendSetColLo s).pb = s.pb := sendByte_pb _ _

@[simp] theorem sendSetColLo_fb (s : State) : (sendSetColLo s).fb = s.fb := sendByte_fb _ _

@[simp] theorem sendSetColLo_tx (s : State) : (sendSetColLo s).tx = s.tx := sendByte_tx _ _

@[simp] theorem sendSetColLo_params (s : State) : (sendSetColLo s).params = s.params := sendByte_params _ _

@[simp] theorem sendSetColLo_inbox (s : State) : (sendSetColLo s).inbox = s.inbox := sendByte_inbox _ _

@[simp] theorem sendSetColHi_life (s : State) : (sendSetColHi s).life = s.life := sendByte_life _ _

@[simp] theorem sendSetColHi_inited (s : State) : (sendSetColHi s).inited = s.inited := sendByte_inited _ _

@[simp] theorem sendSetColHi_acq (s : State) : (sendSetColHi s).acq = s.acq := sendByte_acq _ _

@[simp] theorem sendSetColHi_dir (s : State) : (sendSetColHi s).dir = s.dir := sendByte_dir _ _

@[simp] theorem sendSetColHi_sdreq (s : State) : (sendSetColHi s).sdreq = s.sdreq := sendByte_sdreq _ _

@[simp] theorem sendSetColHi_lastres (s : State) : (sendSetColHi s).lastres = s.lastres := sendByte_lastres _ _

@[simp] theorem sendSetColHi_page (s : State) : (sendSetColHi s).page = s.page := sendByte_page _ _

@[simp] theorem sendSetColHi_col (s : State) : (sendSetColHi s).col = s.col := sendByte_col _ _

@[simp] theorem sendSetColHi_initi (s : State) : (sendSetColHi s).initi = s.initi := sendByte_initi _ _

@[simp] theorem sendSetColHi_chi (s : State) : (sendSetColHi s).chi = s.chi := sendByte_chi _ _

@[simp] theorem sendSetColHi_gcol (s : State) : (sendSetColHi s).gcol = s.gcol := sendByte_gcol _ _

@[simp] theorem sendSetColHi_pb (s : State) : (sendSetColHi s).pb = s.pb := sendByte_pb _ _

@[simp] theorem sendSetColHi_fb (s : State) : (sendSetColHi s).fb = s.fb := sendByte_fb _ _

@[simp] theorem sendSetColHi_tx (s : State) : (sendSetColHi s).tx = s.tx := sendByte_tx _ _

@[simp] theorem sendSetColHi_params (s : State) : (sendSetColHi s).params = s.params := sendByte_params _ _

@[simp] theorem sendSetColHi_inbox (s : State) : (sendSetColHi s).inbox = s.inbox := sendByte_inbox _ _

@[simp] theorem preamble_life (p : BitVec 3) (s : State) : (preamble p s).life = s.life := by simp [preamble]

@[simp] theorem preamble_inited (p : BitVec 3) (s : State) : (preamble p s).inited = s.inited := by simp [preamble]

@[simp] theorem preamble_acq (p : BitVec 3) (s : State) : (preamble p s).acq = s.acq := by simp [preamble]

@[simp] theorem preamble_dir (p : BitVec 3) (s : State) : (preamble p s).dir = s.dir := by simp [preamble]

@[simp] theorem preamble_sdreq (p : BitVec 3) (s : State) : (preamble p s).sdreq = s.sdreq := by simp [preamble]

@[simp] theorem preamble_lastres (p : BitVec 3) (s : State) : (preamble p s).lastres = s.lastres := by simp [preamble]

@[simp] theorem preamble_page (p : BitVec 3) (s : State) : (preamble p s).page = s.page := by simp [preamble]

@[simp] theorem preamble_col (p : BitVec 3) (s : State) : (preamble p s).col = s.col := by simp [preamble]

@[simp] theorem preamble_initi (p : BitVec 3) (s : State) : (preamble p s).initi = s.initi := by simp [preamble]

@[simp] theorem preamble_chi (p : BitVec 3) (s : State) : (preamble p s).chi = s.chi := by simp [preamble]

@[simp] theorem preamble_gcol (p : BitVec 3) (s : State) : (preamble p s).gcol = s.gcol := by simp [preamble]

@[simp] theorem preamble_pb (p : BitVec 3) (s : State) : (preamble p s).pb = s.pb := by simp [preamble]

@[simp] theorem preamble_fb (p : BitVec 3) (s : State) : (preamble p s).fb = s.fb := by simp [preamble]

@[simp] theorem preamble_tx (p : BitVec 3) (s : State) : (preamble p s).tx = s.tx := by simp [preamble]

@[simp] theorem preamble_params (p : BitVec 3) (s : State) : (preamble p s).params = s.params := by simp [preamble]

@[simp] theorem preamble_inbox (p : BitVec 3) (s : State) : (preamble p s).inbox = s.inbox := by simp [preamble]

end Machine

/-! ## `sendByte` and `preamble` -/

theorem issued_sendByte (v : Byte) (s : State) : Issued (sessionByteEvents s.params v) s (sendByte v s) :=
  issued_writeByte ..

/-- A byte is made of writes to CLK and MOSI. -/
theorem role?_of_mem_byteEvents {v : Byte} {m : SpiMode} {o : BitOrder} {e : PortEvent}
    (h : e ∈ byteEvents v m o) : e.role? = some .clk ∨ e.role? = some .mosi := by
  simp only [byteEvents, slotEvents, List.mem_append, List.mem_flatMap, List.mem_cons, List.not_mem_nil,
    or_false] at h
  rcases h with ((rfl | h) | ⟨b, -, rfl | rfl | rfl⟩) | rfl
  · exact .inl rfl
  · split at h
    · rw [List.mem_singleton] at h; subst h; exact .inl rfl
    · cases h
  · exact .inr rfl
  · exact .inl rfl
  · exact .inl rfl
  · exact .inl rfl

/-- So a byte leaves the level of every other line. -/
theorem writeByte_lvl_get {r : Role} (hc : r ≠ .clk) (hm : r ≠ .mosi) (v : Byte) (m : SpiMode) (o : BitOrder)
    (s : State) : (writeByte v m o s).lvl.get r = s.lvl.get r := by
  apply (issued_writeByte v m o s).lvl_get_of_ne
  intro e he h
  rcases role?_of_mem_byteEvents he with h' | h' <;> rw [h'] at h <;> cases h
  · exact hc rfl
  · exact hm rfl

@[simp] theorem sendByte_lvl_dc (v : Byte) (s : State) : (sendByte v s).lvl.dc = s.lvl.dc :=
  writeByte_lvl_get (r := .dc) (by decide) (by decide) ..

/-- B counts the events of a byte, all of them calls (`40_spi_transport.md` R84). -/
theorem length_byteEvents (v : Byte) (m : SpiMode) (o : BitOrder) : (byteEvents v m o).length = eventsPerByte m := by
  cases o <;> fin_cases m <;> rfl

theorem calls_byteEvents (v : Byte) (m : SpiMode) (o : BitOrder) : calls (byteEvents v m o) = eventsPerByte m := by
  cases o <;> fin_cases m <;> rfl

theorem length_sessionBytes (p : Params) (bytes : List Byte) :
    (bytes.flatMap (sessionByteEvents p)).length = bytes.length * eventsPerByte p.cfgMode := by
  induction bytes with
  | nil => simp
  | cons b bs ih =>
    rw [List.flatMap_cons, List.length_append, ih, sessionByteEvents, length_byteEvents, List.length_cons,
      Nat.add_mul, Nat.one_mul, Nat.add_comm]

theorem calls_sessionBytes (p : Params) (bytes : List Byte) :
    calls (bytes.flatMap (sessionByteEvents p)) = bytes.length * eventsPerByte p.cfgMode := by
  induction bytes with
  | nil => simp
  | cons b bs ih =>
    rw [List.flatMap_cons, calls_append, ih, sessionByteEvents, calls_byteEvents, List.length_cons,
      Nat.add_mul, Nat.one_mul, Nat.add_comm]

theorem setPageByte_eq (p : BitVec 3) : setPageByte p = 0xB0 + p.setWidth 8 := rfl

theorem issued_preamble (p : BitVec 3) (s : State) : Issued (preambleEvents s.params p) s (preamble p s) := by
  have h0 := issued_pwrite .dc false s
  have h1 := h0.trans (issued_sendByte (setPageByte p) _)
  have h2 := h1.trans (issued_sendByte setColLoByte _)
  have h3 := h2.trans (issued_sendByte setColHiByte _)
  have h4 := h3.trans (issued_pwrite .dc true _)
  simpa [preambleEvents, addressBytes, setPageByte_eq, setColLoByte, setColHiByte, preamble, sendSetPage,
    sendSetColLo, sendSetColHi] using h4

end Sys2Proof
end

