-- ==== Sys2Proof/Laws/Commands.lean ====
section
/-! SUPPORT. The steps of the commands: the events each issues, and the fields each leaves. -/

namespace Sys2Proof

open Sys2Proof.Machine

namespace Machine

@[simp] theorem endWithPortCheck_life (s : State) : (endWithPortCheck s).life = s.life := by
  unfold endWithPortCheck; split <;> rfl

@[simp] theorem endWithPortCheck_inited (s : State) : (endWithPortCheck s).inited = s.inited := by
  unfold endWithPortCheck; split <;> rfl

@[simp] theorem endWithPortCheck_acq (s : State) : (endWithPortCheck s).acq = s.acq := by
  unfold endWithPortCheck; split <;> rfl

@[simp] theorem endWithPortCheck_dir (s : State) : (endWithPortCheck s).dir = s.dir := by
  unfold endWithPortCheck; split <;> rfl

@[simp] theorem endWithPortCheck_sdreq (s : State) : (endWithPortCheck s).sdreq = s.sdreq := by
  unfold endWithPortCheck; split <;> rfl

@[simp] theorem endWithPortCheck_sr (s : State) : (endWithPortCheck s).sr = s.sr := by
  unfold endWithPortCheck; split <;> rfl

@[simp] theorem endWithPortCheck_clkv (s : State) : (endWithPortCheck s).clkv = s.clkv := by
  unfold endWithPortCheck; split <;> rfl

@[simp] theorem endWithPortCheck_bitn (s : State) : (endWithPortCheck s).bitn = s.bitn := by
  unfold endWithPortCheck; split <;> rfl

@[simp] theorem endWithPortCheck_page (s : State) : (endWithPortCheck s).page = s.page := by
  unfold endWithPortCheck; split <;> rfl

@[simp] theorem endWithPortCheck_col (s : State) : (endWithPortCheck s).col = s.col := by
  unfold endWithPortCheck; split <;> rfl

@[simp] theorem endWithPortCheck_initi (s : State) : (endWithPortCheck s).initi = s.initi := by
  unfold endWithPortCheck; split <;> rfl

@[simp] theorem endWithPortCheck_chi (s : State) : (endWithPortCheck s).chi = s.chi := by
  unfold endWithPortCheck; split <;> rfl

@[simp] theorem endWithPortCheck_gcol (s : State) : (endWithPortCheck s).gcol = s.gcol := by
  unfold endWithPortCheck; split <;> rfl

@[simp] theorem endWithPortCheck_pb (s : State) : (endWithPortCheck s).pb = s.pb := by
  unfold endWithPortCheck; split <;> rfl

@[simp] theorem endWithPortCheck_fb (s : State) : (endWithPortCheck s).fb = s.fb := by
  unfold endWithPortCheck; split <;> rfl

@[simp] theorem endWithPortCheck_tx (s : State) : (endWithPortCheck s).tx = s.tx := by
  unfold endWithPortCheck; split <;> rfl

@[simp] theorem endWithPortCheck_wire (s : State) : (endWithPortCheck s).wire = s.wire := by
  unfold endWithPortCheck; split <;> rfl

@[simp] theorem endWithPortCheck_params (s : State) : (endWithPortCheck s).params = s.params := by
  unfold endWithPortCheck; split <;> rfl

@[simp] theorem endWithPortCheck_inbox (s : State) : (endWithPortCheck s).inbox = s.inbox := by
  unfold endWithPortCheck; split <;> rfl

@[simp] theorem endWithPortCheck_trace (s : State) : (endWithPortCheck s).trace = s.trace := by
  unfold endWithPortCheck; split <;> rfl

@[simp] theorem endWithPortCheck_lvl (s : State) : (endWithPortCheck s).lvl = s.lvl := by
  unfold endWithPortCheck; split <;> rfl

@[simp] theorem endWithPortCheck_pfail (s : State) : (endWithPortCheck s).pfail = s.pfail := by
  unfold endWithPortCheck; split <;> rfl

@[simp] theorem endWithPortCheck_answers (s : State) : (endWithPortCheck s).answers = s.answers := by
  unfold endWithPortCheck; split <;> rfl

@[simp] theorem endWithPortCheck_portCalls (s : State) : (endWithPortCheck s).portCalls = s.portCalls := by
  unfold endWithPortCheck; split <;> rfl

@[simp] theorem acquirePin_life (r : Role) (s : State) : (acquirePin r s).life = s.life := by
  unfold acquirePin; split <;> simp

@[simp] theorem acquirePin_inited (r : Role) (s : State) : (acquirePin r s).inited = s.inited := by
  unfold acquirePin; split <;> simp

@[simp] theorem acquirePin_dir (r : Role) (s : State) : (acquirePin r s).dir = s.dir := by
  unfold acquirePin; split <;> simp

@[simp] theorem acquirePin_sdreq (r : Role) (s : State) : (acquirePin r s).sdreq = s.sdreq := by
  unfold acquirePin; split <;> simp

@[simp] theorem acquirePin_lastres (r : Role) (s : State) : (acquirePin r s).lastres = s.lastres := by
  unfold acquirePin; split <;> simp

@[simp] theorem acquirePin_sr (r : Role) (s : State) : (acquirePin r s).sr = s.sr := by
  unfold acquirePin; split <;> simp

@[simp] theorem acquirePin_clkv (r : Role) (s : State) : (acquirePin r s).clkv = s.clkv := by
  unfold acquirePin; split <;> simp

@[simp] theorem acquirePin_bitn (r : Role) (s : State) : (acquirePin r s).bitn = s.bitn := by
  unfold acquirePin; split <;> simp

@[simp] theorem acquirePin_page (r : Role) (s : State) : (acquirePin r s).page = s.page := by
  unfold acquirePin; split <;> simp

@[simp] theorem acquirePin_col (r : Role) (s : State) : (acquirePin r s).col = s.col := by
  unfold acquirePin; split <;> simp

@[simp] theorem acquirePin_initi (r : Role) (s : State) : (acquirePin r s).initi = s.initi := by
  unfold acquirePin; split <;> simp

@[simp] theorem acquirePin_chi (r : Role) (s : State) : (acquirePin r s).chi = s.chi := by
  unfold acquirePin; split <;> simp

@[simp] theorem acquirePin_gcol (r : Role) (s : State) : (acquirePin r s).gcol = s.gcol := by
  unfold acquirePin; split <;> simp

@[simp] theorem acquirePin_pb (r : Role) (s : State) : (acquirePin r s).pb = s.pb := by
  unfold acquirePin; split <;> simp

@[simp] theorem acquirePin_fb (r : Role) (s : State) : (acquirePin r s).fb = s.fb := by
  unfold acquirePin; split <;> simp

@[simp] theorem acquirePin_tx (r : Role) (s : State) : (acquirePin r s).tx = s.tx := by
  unfold acquirePin; split <;> simp

@[simp] theorem acquirePin_wire (r : Role) (s : State) : (acquirePin r s).wire = s.wire := by
  unfold acquirePin; split <;> simp

@[simp] theorem acquirePin_params (r : Role) (s : State) : (acquirePin r s).params = s.params := by
  unfold acquirePin; split <;> simp

@[simp] theorem acquirePin_inbox (r : Role) (s : State) : (acquirePin r s).inbox = s.inbox := by
  unfold acquirePin; split <;> simp

@[simp] theorem directPin_life (d : PinDir) (r : Role) (s : State) : (directPin d r s).life = s.life := by
  unfold directPin; split <;> simp

@[simp] theorem directPin_inited (d : PinDir) (r : Role) (s : State) : (directPin d r s).inited = s.inited := by
  unfold directPin; split <;> simp

@[simp] theorem directPin_acq (d : PinDir) (r : Role) (s : State) : (directPin d r s).acq = s.acq := by
  unfold directPin; split <;> simp

@[simp] theorem directPin_sdreq (d : PinDir) (r : Role) (s : State) : (directPin d r s).sdreq = s.sdreq := by
  unfold directPin; split <;> simp

@[simp] theorem directPin_lastres (d : PinDir) (r : Role) (s : State) : (directPin d r s).lastres = s.lastres := by
  unfold directPin; split <;> simp

@[simp] theorem directPin_sr (d : PinDir) (r : Role) (s : State) : (directPin d r s).sr = s.sr := by
  unfold directPin; split <;> simp

@[simp] theorem directPin_clkv (d : PinDir) (r : Role) (s : State) : (directPin d r s).clkv = s.clkv := by
  unfold directPin; split <;> simp

@[simp] theorem directPin_bitn (d : PinDir) (r : Role) (s : State) : (directPin d r s).bitn = s.bitn := by
  unfold directPin; split <;> simp

@[simp] theorem directPin_page (d : PinDir) (r : Role) (s : State) : (directPin d r s).page = s.page := by
  unfold directPin; split <;> simp

@[simp] theorem directPin_col (d : PinDir) (r : Role) (s : State) : (directPin d r s).col = s.col := by
  unfold directPin; split <;> simp

@[simp] theorem directPin_initi (d : PinDir) (r : Role) (s : State) : (directPin d r s).initi = s.initi := by
  unfold directPin; split <;> simp

@[simp] theorem directPin_chi (d : PinDir) (r : Role) (s : State) : (directPin d r s).chi = s.chi := by
  unfold directPin; split <;> simp

@[simp] theorem directPin_gcol (d : PinDir) (r : Role) (s : State) : (directPin d r s).gcol = s.gcol := by
  unfold directPin; split <;> simp

@[simp] theorem directPin_pb (d : PinDir) (r : Role) (s : State) : (directPin d r s).pb = s.pb := by
  unfold directPin; split <;> simp

@[simp] theorem directPin_fb (d : PinDir) (r : Role) (s : State) : (directPin d r s).fb = s.fb := by
  unfold directPin; split <;> simp

@[simp] theorem directPin_tx (d : PinDir) (r : Role) (s : State) : (directPin d r s).tx = s.tx := by
  unfold directPin; split <;> simp

@[simp] theorem directPin_wire (d : PinDir) (r : Role) (s : State) : (directPin d r s).wire = s.wire := by
  unfold directPin; split <;> simp

@[simp] theorem directPin_params (d : PinDir) (r : Role) (s : State) : (directPin d r s).params = s.params := by
  unfold directPin; split <;> simp

@[simp] theorem directPin_inbox (d : PinDir) (r : Role) (s : State) : (directPin d r s).inbox = s.inbox := by
  unfold directPin; split <;> simp

@[simp] theorem releasePin_life (r : Role) (s : State) : (releasePin r s).life = s.life := by simp [releasePin]

@[simp] theorem releasePin_inited (r : Role) (s : State) : (releasePin r s).inited = s.inited := by simp [releasePin]

@[simp] theorem releasePin_sdreq (r : Role) (s : State) : (releasePin r s).sdreq = s.sdreq := by simp [releasePin]

@[simp] theorem releasePin_lastres (r : Role) (s : State) : (releasePin r s).lastres = s.lastres := by simp [releasePin]

@[simp] theorem releasePin_sr (r : Role) (s : State) : (releasePin r s).sr = s.sr := by simp [releasePin]

@[simp] theorem releasePin_clkv (r : Role) (s : State) : (releasePin r s).clkv = s.clkv := by simp [releasePin]

@[simp] theorem releasePin_bitn (r : Role) (s : State) : (releasePin r s).bitn = s.bitn := by simp [releasePin]

@[simp] theorem releasePin_page (r : Role) (s : State) : (releasePin r s).page = s.page := by simp [releasePin]

@[simp] theorem releasePin_col (r : Role) (s : State) : (releasePin r s).col = s.col := by simp [releasePin]

@[simp] theorem releasePin_initi (r : Role) (s : State) : (releasePin r s).initi = s.initi := by simp [releasePin]

@[simp] theorem releasePin_chi (r : Role) (s : State) : (releasePin r s).chi = s.chi := by simp [releasePin]

@[simp] theorem releasePin_gcol (r : Role) (s : State) : (releasePin r s).gcol = s.gcol := by simp [releasePin]

@[simp] theorem releasePin_pb (r : Role) (s : State) : (releasePin r s).pb = s.pb := by simp [releasePin]

@[simp] theorem releasePin_fb (r : Role) (s : State) : (releasePin r s).fb = s.fb := by simp [releasePin]

@[simp] theorem releasePin_tx (r : Role) (s : State) : (releasePin r s).tx = s.tx := by simp [releasePin]

@[simp] theorem releasePin_wire (r : Role) (s : State) : (releasePin r s).wire = s.wire := by simp [releasePin]

@[simp] theorem releasePin_params (r : Role) (s : State) : (releasePin r s).params = s.params := by simp [releasePin]

@[simp] theorem releasePin_inbox (r : Role) (s : State) : (releasePin r s).inbox = s.inbox := by simp [releasePin]

@[simp] theorem acquireAll_life (s : State) : (acquireAll s).life = s.life := forRoles_same (·.life) (fun r t => acquirePin_life r t) s

@[simp] theorem acquireAll_inited (s : State) : (acquireAll s).inited = s.inited := forRoles_same (·.inited) (fun r t => acquirePin_inited r t) s

@[simp] theorem acquireAll_dir (s : State) : (acquireAll s).dir = s.dir := forRoles_same (·.dir) (fun r t => acquirePin_dir r t) s

@[simp] theorem acquireAll_sdreq (s : State) : (acquireAll s).sdreq = s.sdreq := forRoles_same (·.sdreq) (fun r t => acquirePin_sdreq r t) s

@[simp] theorem acquireAll_lastres (s : State) : (acquireAll s).lastres = s.lastres := forRoles_same (·.lastres) (fun r t => acquirePin_lastres r t) s

@[simp] theorem acquireAll_sr (s : State) : (acquireAll s).sr = s.sr := forRoles_same (·.sr) (fun r t => acquirePin_sr r t) s

@[simp] theorem acquireAll_clkv (s : State) : (acquireAll s).clkv = s.clkv := forRoles_same (·.clkv) (fun r t => acquirePin_clkv r t) s

@[simp] theorem acquireAll_bitn (s : State) : (acquireAll s).bitn = s.bitn := forRoles_same (·.bitn) (fun r t => acquirePin_bitn r t) s

@[simp] theorem acquireAll_page (s : State) : (acquireAll s).page = s.page := forRoles_same (·.page) (fun r t => acquirePin_page r t) s

@[simp] theorem acquireAll_col (s : State) : (acquireAll s).col = s.col := forRoles_same (·.col) (fun r t => acquirePin_col r t) s

@[simp] theorem acquireAll_initi (s : State) : (acquireAll s).initi = s.initi := forRoles_same (·.initi) (fun r t => acquirePin_initi r t) s

@[simp] theorem acquireAll_chi (s : State) : (acquireAll s).chi = s.chi := forRoles_same (·.chi) (fun r t => acquirePin_chi r t) s

@[simp] theorem acquireAll_gcol (s : State) : (acquireAll s).gcol = s.gcol := forRoles_same (·.gcol) (fun r t => acquirePin_gcol r t) s

@[simp] theorem acquireAll_pb (s : State) : (acquireAll s).pb = s.pb := forRoles_same (·.pb) (fun r t => acquirePin_pb r t) s

@[simp] theorem acquireAll_fb (s : State) : (acquireAll s).fb = s.fb := forRoles_same (·.fb) (fun r t => acquirePin_fb r t) s

@[simp] theorem acquireAll_tx (s : State) : (acquireAll s).tx = s.tx := forRoles_same (·.tx) (fun r t => acquirePin_tx r t) s

@[simp] theorem acquireAll_wire (s : State) : (acquireAll s).wire = s.wire := forRoles_same (·.wire) (fun r t => acquirePin_wire r t) s

@[simp] theorem acquireAll_params (s : State) : (acquireAll s).params = s.params := forRoles_same (·.params) (fun r t => acquirePin_params r t) s

@[simp] theorem acquireAll_inbox (s : State) : (acquireAll s).inbox = s.inbox := forRoles_same (·.inbox) (fun r t => acquirePin_inbox r t) s

@[simp] theorem directAll_life (s : State) : (directAll s).life = s.life := forRoles_same (·.life) (fun r t => directPin_life _ r t) s

@[simp] theorem directAll_inited (s : State) : (directAll s).inited = s.inited := forRoles_same (·.inited) (fun r t => directPin_inited _ r t) s

@[simp] theorem directAll_acq (s : State) : (directAll s).acq = s.acq := forRoles_same (·.acq) (fun r t => directPin_acq _ r t) s

@[simp] theorem directAll_sdreq (s : State) : (directAll s).sdreq = s.sdreq := forRoles_same (·.sdreq) (fun r t => directPin_sdreq _ r t) s

@[simp] theorem directAll_lastres (s : State) : (directAll s).lastres = s.lastres := forRoles_same (·.lastres) (fun r t => directPin_lastres _ r t) s

@[simp] theorem directAll_sr (s : State) : (directAll s).sr = s.sr := forRoles_same (·.sr) (fun r t => directPin_sr _ r t) s

@[simp] theorem directAll_clkv (s : State) : (directAll s).clkv = s.clkv := forRoles_same (·.clkv) (fun r t => directPin_clkv _ r t) s

@[simp] theorem directAll_bitn (s : State) : (directAll s).bitn = s.bitn := forRoles_same (·.bitn) (fun r t => directPin_bitn _ r t) s

@[simp] theorem directAll_page (s : State) : (directAll s).page = s.page := forRoles_same (·.page) (fun r t => directPin_page _ r t) s

@[simp] theorem directAll_col (s : State) : (directAll s).col = s.col := forRoles_same (·.col) (fun r t => directPin_col _ r t) s

@[simp] theorem directAll_initi (s : State) : (directAll s).initi = s.initi := forRoles_same (·.initi) (fun r t => directPin_initi _ r t) s

@[simp] theorem directAll_chi (s : State) : (directAll s).chi = s.chi := forRoles_same (·.chi) (fun r t => directPin_chi _ r t) s

@[simp] theorem directAll_gcol (s : State) : (directAll s).gcol = s.gcol := forRoles_same (·.gcol) (fun r t => directPin_gcol _ r t) s

@[simp] theorem directAll_pb (s : State) : (directAll s).pb = s.pb := forRoles_same (·.pb) (fun r t => directPin_pb _ r t) s

@[simp] theorem directAll_fb (s : State) : (directAll s).fb = s.fb := forRoles_same (·.fb) (fun r t => directPin_fb _ r t) s

@[simp] theorem directAll_tx (s : State) : (directAll s).tx = s.tx := forRoles_same (·.tx) (fun r t => directPin_tx _ r t) s

@[simp] theorem directAll_wire (s : State) : (directAll s).wire = s.wire := forRoles_same (·.wire) (fun r t => directPin_wire _ r t) s

@[simp] theorem directAll_params (s : State) : (directAll s).params = s.params := forRoles_same (·.params) (fun r t => directPin_params _ r t) s

@[simp] theorem directAll_inbox (s : State) : (directAll s).inbox = s.inbox := forRoles_same (·.inbox) (fun r t => directPin_inbox _ r t) s

@[simp] theorem assertLines_life (s : State) : (assertLines s).life = s.life := by simp [assertLines]

@[simp] theorem assertLines_inited (s : State) : (assertLines s).inited = s.inited := by simp [assertLines]

@[simp] theorem assertLines_acq (s : State) : (assertLines s).acq = s.acq := by simp [assertLines]

@[simp] theorem assertLines_dir (s : State) : (assertLines s).dir = s.dir := by simp [assertLines]

@[simp] theorem assertLines_sdreq (s : State) : (assertLines s).sdreq = s.sdreq := by simp [assertLines]

@[simp] theorem assertLines_lastres (s : State) : (assertLines s).lastres = s.lastres := by simp [assertLines]

@[simp] theorem assertLines_sr (s : State) : (assertLines s).sr = s.sr := by simp [assertLines]

@[simp] theorem assertLines_clkv (s : State) : (assertLines s).clkv = s.clkv := by simp [assertLines]

@[simp] theorem assertLines_bitn (s : State) : (assertLines s).bitn = s.bitn := by simp [assertLines]

@[simp] theorem assertLines_page (s : State) : (assertLines s).page = s.page := by simp [assertLines]

@[simp] theorem assertLines_col (s : State) : (assertLines s).col = s.col := by simp [assertLines]

@[simp] theorem assertLines_initi (s : State) : (assertLines s).initi = s.initi := by simp [assertLines]

@[simp] theorem assertLines_chi (s : State) : (assertLines s).chi = s.chi := by simp [assertLines]

@[simp] theorem assertLines_gcol (s : State) : (assertLines s).gcol = s.gcol := by simp [assertLines]

@[simp] theorem assertLines_pb (s : State) : (assertLines s).pb = s.pb := by simp [assertLines]

@[simp] theorem assertLines_fb (s : State) : (assertLines s).fb = s.fb := by simp [assertLines]

@[simp] theorem assertLines_tx (s : State) : (assertLines s).tx = s.tx := by simp [assertLines]

@[simp] theorem assertLines_wire (s : State) : (assertLines s).wire = s.wire := by simp [assertLines]

@[simp] theorem assertLines_params (s : State) : (assertLines s).params = s.params := by simp [assertLines]

@[simp] theorem assertLines_inbox (s : State) : (assertLines s).inbox = s.inbox := by simp [assertLines]

@[simp] theorem resetPhase_life (s : State) (v : Bool) : (resetPhase s v).life = s.life := by simp [resetPhase]

@[simp] theorem resetPhase_inited (s : State) (v : Bool) : (resetPhase s v).inited = s.inited := by simp [resetPhase]

@[simp] theorem resetPhase_acq (s : State) (v : Bool) : (resetPhase s v).acq = s.acq := by simp [resetPhase]

@[simp] theorem resetPhase_dir (s : State) (v : Bool) : (resetPhase s v).dir = s.dir := by simp [resetPhase]

@[simp] theorem resetPhase_sdreq (s : State) (v : Bool) : (resetPhase s v).sdreq = s.sdreq := by simp [resetPhase]

@[simp] theorem resetPhase_lastres (s : State) (v : Bool) : (resetPhase s v).lastres = s.lastres := by simp [resetPhase]

@[simp] theorem resetPhase_sr (s : State) (v : Bool) : (resetPhase s v).sr = s.sr := by simp [resetPhase]

@[simp] theorem resetPhase_clkv (s : State) (v : Bool) : (resetPhase s v).clkv = s.clkv := by simp [resetPhase]

@[simp] theorem resetPhase_bitn (s : State) (v : Bool) : (resetPhase s v).bitn = s.bitn := by simp [resetPhase]

@[simp] theorem resetPhase_page (s : State) (v : Bool) : (resetPhase s v).page = s.page := by simp [resetPhase]

@[simp] theorem resetPhase_col (s : State) (v : Bool) : (resetPhase s v).col = s.col := by simp [resetPhase]

@[simp] theorem resetPhase_initi (s : State) (v : Bool) : (resetPhase s v).initi = s.initi := by simp [resetPhase]

@[simp] theorem resetPhase_chi (s : State) (v : Bool) : (resetPhase s v).chi = s.chi := by simp [resetPhase]

@[simp] theorem resetPhase_gcol (s : State) (v : Bool) : (resetPhase s v).gcol = s.gcol := by simp [resetPhase]

@[simp] theorem resetPhase_pb (s : State) (v : Bool) : (resetPhase s v).pb = s.pb := by simp [resetPhase]

@[simp] theorem resetPhase_fb (s : State) (v : Bool) : (resetPhase s v).fb = s.fb := by simp [resetPhase]

@[simp] theorem resetPhase_tx (s : State) (v : Bool) : (resetPhase s v).tx = s.tx := by simp [resetPhase]

@[simp] theorem resetPhase_wire (s : State) (v : Bool) : (resetPhase s v).wire = s.wire := by simp [resetPhase]

@[simp] theorem resetPhase_params (s : State) (v : Bool) : (resetPhase s v).params = s.params := by simp [resetPhase]

@[simp] theorem resetPhase_inbox (s : State) (v : Bool) : (resetPhase s v).inbox = s.inbox := by simp [resetPhase]

@[simp] theorem displayReset_life (s : State) : (displayReset s).life = s.life := by simp [displayReset, rstSeq]

@[simp] theorem displayReset_inited (s : State) : (displayReset s).inited = s.inited := by simp [displayReset, rstSeq]

@[simp] theorem displayReset_acq (s : State) : (displayReset s).acq = s.acq := by simp [displayReset, rstSeq]

@[simp] theorem displayReset_dir (s : State) : (displayReset s).dir = s.dir := by simp [displayReset, rstSeq]

@[simp] theorem displayReset_sdreq (s : State) : (displayReset s).sdreq = s.sdreq := by simp [displayReset, rstSeq]

@[simp] theorem displayReset_lastres (s : State) : (displayReset s).lastres = s.lastres := by simp [displayReset, rstSeq]

@[simp] theorem displayReset_sr (s : State) : (displayReset s).sr = s.sr := by simp [displayReset, rstSeq]

@[simp] theorem displayReset_clkv (s : State) : (displayReset s).clkv = s.clkv := by simp [displayReset, rstSeq]

@[simp] theorem displayReset_bitn (s : State) : (displayReset s).bitn = s.bitn := by simp [displayReset, rstSeq]

@[simp] theorem displayReset_page (s : State) : (displayReset s).page = s.page := by simp [displayReset, rstSeq]

@[simp] theorem displayReset_col (s : State) : (displayReset s).col = s.col := by simp [displayReset, rstSeq]

@[simp] theorem displayReset_initi (s : State) : (displayReset s).initi = s.initi := by simp [displayReset, rstSeq]

@[simp] theorem displayReset_chi (s : State) : (displayReset s).chi = s.chi := by simp [displayReset, rstSeq]

@[simp] theorem displayReset_gcol (s : State) : (displayReset s).gcol = s.gcol := by simp [displayReset, rstSeq]

@[simp] theorem displayReset_pb (s : State) : (displayReset s).pb = s.pb := by simp [displayReset, rstSeq]

@[simp] theorem displayReset_fb (s : State) : (displayReset s).fb = s.fb := by simp [displayReset, rstSeq]

@[simp] theorem displayReset_tx (s : State) : (displayReset s).tx = s.tx := by simp [displayReset, rstSeq]

@[simp] theorem displayReset_wire (s : State) : (displayReset s).wire = s.wire := by simp [displayReset, rstSeq]

@[simp] theorem displayReset_params (s : State) : (displayReset s).params = s.params := by simp [displayReset, rstSeq]

@[simp] theorem displayReset_inbox (s : State) : (displayReset s).inbox = s.inbox := by simp [displayReset, rstSeq]

@[simp] theorem initializeDisplay_life (s : State) : (initializeDisplay s).life = s.life := forEach_same (·.life) (fun i t => by simp) s

@[simp] theorem initializeDisplay_inited (s : State) : (initializeDisplay s).inited = s.inited := forEach_same (·.inited) (fun i t => by simp) s

@[simp] theorem initializeDisplay_acq (s : State) : (initializeDisplay s).acq = s.acq := forEach_same (·.acq) (fun i t => by simp) s

@[simp] theorem initializeDisplay_dir (s : State) : (initializeDisplay s).dir = s.dir := forEach_same (·.dir) (fun i t => by simp) s

@[simp] theorem initializeDisplay_sdreq (s : State) : (initializeDisplay s).sdreq = s.sdreq := forEach_same (·.sdreq) (fun i t => by simp) s

@[simp] theorem initializeDisplay_lastres (s : State) : (initializeDisplay s).lastres = s.lastres := forEach_same (·.lastres) (fun i t => by simp) s

@[simp] theorem initializeDisplay_page (s : State) : (initializeDisplay s).page = s.page := forEach_same (·.page) (fun i t => by simp) s

@[simp] theorem initializeDisplay_col (s : State) : (initializeDisplay s).col = s.col := forEach_same (·.col) (fun i t => by simp) s

@[simp] theorem initializeDisplay_chi (s : State) : (initializeDisplay s).chi = s.chi := forEach_same (·.chi) (fun i t => by simp) s

@[simp] theorem initializeDisplay_gcol (s : State) : (initializeDisplay s).gcol = s.gcol := forEach_same (·.gcol) (fun i t => by simp) s

@[simp] theorem initializeDisplay_pb (s : State) : (initializeDisplay s).pb = s.pb := forEach_same (·.pb) (fun i t => by simp) s

@[simp] theorem initializeDisplay_fb (s : State) : (initializeDisplay s).fb = s.fb := forEach_same (·.fb) (fun i t => by simp) s

@[simp] theorem initializeDisplay_tx (s : State) : (initializeDisplay s).tx = s.tx := forEach_same (·.tx) (fun i t => by simp) s

@[simp] theorem initializeDisplay_params (s : State) : (initializeDisplay s).params = s.params := forEach_same (·.params) (fun i t => by simp) s

@[simp] theorem initializeDisplay_inbox (s : State) : (initializeDisplay s).inbox = s.inbox := forEach_same (·.inbox) (fun i t => by simp) s

@[simp] theorem sendColumn_life (p : Fin 8) (x : Fin 128) (s : State) : (sendColumn p x s).life = s.life := by simp [sendColumn]

@[simp] theorem sendColumn_inited (p : Fin 8) (x : Fin 128) (s : State) : (sendColumn p x s).inited = s.inited := by simp [sendColumn]

@[simp] theorem sendColumn_acq (p : Fin 8) (x : Fin 128) (s : State) : (sendColumn p x s).acq = s.acq := by simp [sendColumn]

@[simp] theorem sendColumn_dir (p : Fin 8) (x : Fin 128) (s : State) : (sendColumn p x s).dir = s.dir := by simp [sendColumn]

@[simp] theorem sendColumn_sdreq (p : Fin 8) (x : Fin 128) (s : State) : (sendColumn p x s).sdreq = s.sdreq := by simp [sendColumn]

@[simp] theorem sendColumn_lastres (p : Fin 8) (x : Fin 128) (s : State) : (sendColumn p x s).lastres = s.lastres := by simp [sendColumn]

@[simp] theorem sendColumn_page (p : Fin 8) (x : Fin 128) (s : State) : (sendColumn p x s).page = s.page := by simp [sendColumn]

@[simp] theorem sendColumn_initi (p : Fin 8) (x : Fin 128) (s : State) : (sendColumn p x s).initi = s.initi := by simp [sendColumn]

@[simp] theorem sendColumn_chi (p : Fin 8) (x : Fin 128) (s : State) : (sendColumn p x s).chi = s.chi := by simp [sendColumn]

@[simp] theorem sendColumn_gcol (p : Fin 8) (x : Fin 128) (s : State) : (sendColumn p x s).gcol = s.gcol := by simp [sendColumn]

@[simp] theorem sendColumn_pb (p : Fin 8) (x : Fin 128) (s : State) : (sendColumn p x s).pb = s.pb := by simp [sendColumn]

@[simp] theorem sendColumn_fb (p : Fin 8) (x : Fin 128) (s : State) : (sendColumn p x s).fb = s.fb := by simp [sendColumn]

@[simp] theorem sendColumn_tx (p : Fin 8) (x : Fin 128) (s : State) : (sendColumn p x s).tx = s.tx := by simp [sendColumn]

@[simp] theorem sendColumn_params (p : Fin 8) (x : Fin 128) (s : State) : (sendColumn p x s).params = s.params := by simp [sendColumn]

@[simp] theorem sendColumn_inbox (p : Fin 8) (x : Fin 128) (s : State) : (sendColumn p x s).inbox = s.inbox := by simp [sendColumn]

@[simp] theorem sendPage_life (p : Fin 8) (s : State) : (sendPage p s).life = s.life := by
  unfold sendPage; rw [forEach_same (·.life) (fun x t => sendColumn_life p x t)]; simp

@[simp] theorem sendPage_inited (p : Fin 8) (s : State) : (sendPage p s).inited = s.inited := by
  unfold sendPage; rw [forEach_same (·.inited) (fun x t => sendColumn_inited p x t)]; simp

@[simp] theorem sendPage_acq (p : Fin 8) (s : State) : (sendPage p s).acq = s.acq := by
  unfold sendPage; rw [forEach_same (·.acq) (fun x t => sendColumn_acq p x t)]; simp

@[simp] theorem sendPage_dir (p : Fin 8) (s : State) : (sendPage p s).dir = s.dir := by
  unfold sendPage; rw [forEach_same (·.dir) (fun x t => sendColumn_dir p x t)]; simp

@[simp] theorem sendPage_sdreq (p : Fin 8) (s : State) : (sendPage p s).sdreq = s.sdreq := by
  unfold sendPage; rw [forEach_same (·.sdreq) (fun x t => sendColumn_sdreq p x t)]; simp

@[simp] theorem sendPage_lastres (p : Fin 8) (s : State) : (sendPage p s).lastres = s.lastres := by
  unfold sendPage; rw [forEach_same (·.lastres) (fun x t => sendColumn_lastres p x t)]; simp

@[simp] theorem sendPage_initi (p : Fin 8) (s : State) : (sendPage p s).initi = s.initi := by
  unfold sendPage; rw [forEach_same (·.initi) (fun x t => sendColumn_initi p x t)]; simp

@[simp] theorem sendPage_chi (p : Fin 8) (s : State) : (sendPage p s).chi = s.chi := by
  unfold sendPage; rw [forEach_same (·.chi) (fun x t => sendColumn_chi p x t)]; simp

@[simp] theorem sendPage_gcol (p : Fin 8) (s : State) : (sendPage p s).gcol = s.gcol := by
  unfold sendPage; rw [forEach_same (·.gcol) (fun x t => sendColumn_gcol p x t)]; simp

@[simp] theorem sendPage_pb (p : Fin 8) (s : State) : (sendPage p s).pb = s.pb := by
  unfold sendPage; rw [forEach_same (·.pb) (fun x t => sendColumn_pb p x t)]; simp

@[simp] theorem sendPage_fb (p : Fin 8) (s : State) : (sendPage p s).fb = s.fb := by
  unfold sendPage; rw [forEach_same (·.fb) (fun x t => sendColumn_fb p x t)]; simp

@[simp] theorem sendPage_tx (p : Fin 8) (s : State) : (sendPage p s).tx = s.tx := by
  unfold sendPage; rw [forEach_same (·.tx) (fun x t => sendColumn_tx p x t)]; simp

@[simp] theorem sendPage_params (p : Fin 8) (s : State) : (sendPage p s).params = s.params := by
  unfold sendPage; rw [forEach_same (·.params) (fun x t => sendColumn_params p x t)]; simp

@[simp] theorem sendPage_inbox (p : Fin 8) (s : State) : (sendPage p s).inbox = s.inbox := by
  unfold sendPage; rw [forEach_same (·.inbox) (fun x t => sendColumn_inbox p x t)]; simp

@[simp] theorem sendGlyphColumn_life (inv : Bool) (i : Fin 16) (j : Fin 8) (s : State) : (sendGlyphColumn inv i j s).life = s.life := by
  unfold sendGlyphColumn; split <;> simp

@[simp] theorem sendGlyphColumn_inited (inv : Bool) (i : Fin 16) (j : Fin 8) (s : State) : (sendGlyphColumn inv i j s).inited = s.inited := by
  unfold sendGlyphColumn; split <;> simp

@[simp] theorem sendGlyphColumn_acq (inv : Bool) (i : Fin 16) (j : Fin 8) (s : State) : (sendGlyphColumn inv i j s).acq = s.acq := by
  unfold sendGlyphColumn; split <;> simp

@[simp] theorem sendGlyphColumn_dir (inv : Bool) (i : Fin 16) (j : Fin 8) (s : State) : (sendGlyphColumn inv i j s).dir = s.dir := by
  unfold sendGlyphColumn; split <;> simp

@[simp] theorem sendGlyphColumn_sdreq (inv : Bool) (i : Fin 16) (j : Fin 8) (s : State) : (sendGlyphColumn inv i j s).sdreq = s.sdreq := by
  unfold sendGlyphColumn; split <;> simp

@[simp] theorem sendGlyphColumn_lastres (inv : Bool) (i : Fin 16) (j : Fin 8) (s : State) : (sendGlyphColumn inv i j s).lastres = s.lastres := by
  unfold sendGlyphColumn; split <;> simp

@[simp] theorem sendGlyphColumn_page (inv : Bool) (i : Fin 16) (j : Fin 8) (s : State) : (sendGlyphColumn inv i j s).page = s.page := by
  unfold sendGlyphColumn; split <;> simp

@[simp] theorem sendGlyphColumn_col (inv : Bool) (i : Fin 16) (j : Fin 8) (s : State) : (sendGlyphColumn inv i j s).col = s.col := by
  unfold sendGlyphColumn; split <;> simp

@[simp] theorem sendGlyphColumn_initi (inv : Bool) (i : Fin 16) (j : Fin 8) (s : State) : (sendGlyphColumn inv i j s).initi = s.initi := by
  unfold sendGlyphColumn; split <;> simp

@[simp] theorem sendGlyphColumn_chi (inv : Bool) (i : Fin 16) (j : Fin 8) (s : State) : (sendGlyphColumn inv i j s).chi = s.chi := by
  unfold sendGlyphColumn; split <;> simp

@[simp] theorem sendGlyphColumn_pb (inv : Bool) (i : Fin 16) (j : Fin 8) (s : State) : (sendGlyphColumn inv i j s).pb = s.pb := by
  unfold sendGlyphColumn; split <;> simp

@[simp] theorem sendGlyphColumn_fb (inv : Bool) (i : Fin 16) (j : Fin 8) (s : State) : (sendGlyphColumn inv i j s).fb = s.fb := by
  unfold sendGlyphColumn; split <;> simp

@[simp] theorem sendGlyphColumn_tx (inv : Bool) (i : Fin 16) (j : Fin 8) (s : State) : (sendGlyphColumn inv i j s).tx = s.tx := by
  unfold sendGlyphColumn; split <;> simp

@[simp] theorem sendGlyphColumn_params (inv : Bool) (i : Fin 16) (j : Fin 8) (s : State) : (sendGlyphColumn inv i j s).params = s.params := by
  unfold sendGlyphColumn; split <;> simp

@[simp] theorem sendGlyphColumn_inbox (inv : Bool) (i : Fin 16) (j : Fin 8) (s : State) : (sendGlyphColumn inv i j s).inbox = s.inbox := by
  unfold sendGlyphColumn; split <;> simp

@[simp] theorem sendChar_life (inv : Bool) (i : Fin 16) (s : State) : (sendChar inv i s).life = s.life := by
  unfold sendChar; rw [forEach_same (·.life) (fun j t => sendGlyphColumn_life inv i j t)]

@[simp] theorem sendChar_inited (inv : Bool) (i : Fin 16) (s : State) : (sendChar inv i s).inited = s.inited := by
  unfold sendChar; rw [forEach_same (·.inited) (fun j t => sendGlyphColumn_inited inv i j t)]

@[simp] theorem sendChar_acq (inv : Bool) (i : Fin 16) (s : State) : (sendChar inv i s).acq = s.acq := by
  unfold sendChar; rw [forEach_same (·.acq) (fun j t => sendGlyphColumn_acq inv i j t)]

@[simp] theorem sendChar_dir (inv : Bool) (i : Fin 16) (s : State) : (sendChar inv i s).dir = s.dir := by
  unfold sendChar; rw [forEach_same (·.dir) (fun j t => sendGlyphColumn_dir inv i j t)]

@[simp] theorem sendChar_sdreq (inv : Bool) (i : Fin 16) (s : State) : (sendChar inv i s).sdreq = s.sdreq := by
  unfold sendChar; rw [forEach_same (·.sdreq) (fun j t => sendGlyphColumn_sdreq inv i j t)]

@[simp] theorem sendChar_lastres (inv : Bool) (i : Fin 16) (s : State) : (sendChar inv i s).lastres = s.lastres := by
  unfold sendChar; rw [forEach_same (·.lastres) (fun j t => sendGlyphColumn_lastres inv i j t)]

@[simp] theorem sendChar_page (inv : Bool) (i : Fin 16) (s : State) : (sendChar inv i s).page = s.page := by
  unfold sendChar; rw [forEach_same (·.page) (fun j t => sendGlyphColumn_page inv i j t)]

@[simp] theorem sendChar_col (inv : Bool) (i : Fin 16) (s : State) : (sendChar inv i s).col = s.col := by
  unfold sendChar; rw [forEach_same (·.col) (fun j t => sendGlyphColumn_col inv i j t)]

@[simp] theorem sendChar_initi (inv : Bool) (i : Fin 16) (s : State) : (sendChar inv i s).initi = s.initi := by
  unfold sendChar; rw [forEach_same (·.initi) (fun j t => sendGlyphColumn_initi inv i j t)]

@[simp] theorem sendChar_pb (inv : Bool) (i : Fin 16) (s : State) : (sendChar inv i s).pb = s.pb := by
  unfold sendChar; rw [forEach_same (·.pb) (fun j t => sendGlyphColumn_pb inv i j t)]

@[simp] theorem sendChar_fb (inv : Bool) (i : Fin 16) (s : State) : (sendChar inv i s).fb = s.fb := by
  unfold sendChar; rw [forEach_same (·.fb) (fun j t => sendGlyphColumn_fb inv i j t)]

@[simp] theorem sendChar_tx (inv : Bool) (i : Fin 16) (s : State) : (sendChar inv i s).tx = s.tx := by
  unfold sendChar; rw [forEach_same (·.tx) (fun j t => sendGlyphColumn_tx inv i j t)]

@[simp] theorem sendChar_params (inv : Bool) (i : Fin 16) (s : State) : (sendChar inv i s).params = s.params := by
  unfold sendChar; rw [forEach_same (·.params) (fun j t => sendGlyphColumn_params inv i j t)]

@[simp] theorem sendChar_inbox (inv : Bool) (i : Fin 16) (s : State) : (sendChar inv i s).inbox = s.inbox := by
  unfold sendChar; rw [forEach_same (·.inbox) (fun j t => sendGlyphColumn_inbox inv i j t)]

@[simp] theorem driveLowIfHeld_life (r : Role) (s : State) : (driveLowIfHeld r s).life = s.life := by
  unfold driveLowIfHeld; split <;> simp

@[simp] theorem driveLowIfHeld_inited (r : Role) (s : State) : (driveLowIfHeld r s).inited = s.inited := by
  unfold driveLowIfHeld; split <;> simp

@[simp] theorem driveLowIfHeld_acq (r : Role) (s : State) : (driveLowIfHeld r s).acq = s.acq := by
  unfold driveLowIfHeld; split <;> simp

@[simp] theorem driveLowIfHeld_dir (r : Role) (s : State) : (driveLowIfHeld r s).dir = s.dir := by
  unfold driveLowIfHeld; split <;> simp

@[simp] theorem driveLowIfHeld_sdreq (r : Role) (s : State) : (driveLowIfHeld r s).sdreq = s.sdreq := by
  unfold driveLowIfHeld; split <;> simp

@[simp] theorem driveLowIfHeld_lastres (r : Role) (s : State) : (driveLowIfHeld r s).lastres = s.lastres := by
  unfold driveLowIfHeld; split <;> simp

@[simp] theorem driveLowIfHeld_sr (r : Role) (s : State) : (driveLowIfHeld r s).sr = s.sr := by
  unfold driveLowIfHeld; split <;> simp

@[simp] theorem driveLowIfHeld_clkv (r : Role) (s : State) : (driveLowIfHeld r s).clkv = s.clkv := by
  unfold driveLowIfHeld; split <;> simp

@[simp] theorem driveLowIfHeld_bitn (r : Role) (s : State) : (driveLowIfHeld r s).bitn = s.bitn := by
  unfold driveLowIfHeld; split <;> simp

@[simp] theorem driveLowIfHeld_page (r : Role) (s : State) : (driveLowIfHeld r s).page = s.page := by
  unfold driveLowIfHeld; split <;> simp

@[simp] theorem driveLowIfHeld_col (r : Role) (s : State) : (driveLowIfHeld r s).col = s.col := by
  unfold driveLowIfHeld; split <;> simp

@[simp] theorem driveLowIfHeld_initi (r : Role) (s : State) : (driveLowIfHeld r s).initi = s.initi := by
  unfold driveLowIfHeld; split <;> simp

@[simp] theorem driveLowIfHeld_chi (r : Role) (s : State) : (driveLowIfHeld r s).chi = s.chi := by
  unfold driveLowIfHeld; split <;> simp

@[simp] theorem driveLowIfHeld_gcol (r : Role) (s : State) : (driveLowIfHeld r s).gcol = s.gcol := by
  unfold driveLowIfHeld; split <;> simp

@[simp] theorem driveLowIfHeld_pb (r : Role) (s : State) : (driveLowIfHeld r s).pb = s.pb := by
  unfold driveLowIfHeld; split <;> simp

@[simp] theorem driveLowIfHeld_fb (r : Role) (s : State) : (driveLowIfHeld r s).fb = s.fb := by
  unfold driveLowIfHeld; split <;> simp

@[simp] theorem driveLowIfHeld_tx (r : Role) (s : State) : (driveLowIfHeld r s).tx = s.tx := by
  unfold driveLowIfHeld; split <;> simp

@[simp] theorem driveLowIfHeld_wire (r : Role) (s : State) : (driveLowIfHeld r s).wire = s.wire := by
  unfold driveLowIfHeld; split <;> simp

@[simp] theorem driveLowIfHeld_params (r : Role) (s : State) : (driveLowIfHeld r s).params = s.params := by
  unfold driveLowIfHeld; split <;> simp

@[simp] theorem driveLowIfHeld_inbox (r : Role) (s : State) : (driveLowIfHeld r s).inbox = s.inbox := by
  unfold driveLowIfHeld; split <;> simp

@[simp] theorem releaseIfHeld_life (r : Role) (s : State) : (releaseIfHeld r s).life = s.life := by
  unfold releaseIfHeld; split <;> simp

@[simp] theorem releaseIfHeld_inited (r : Role) (s : State) : (releaseIfHeld r s).inited = s.inited := by
  unfold releaseIfHeld; split <;> simp

@[simp] theorem releaseIfHeld_sdreq (r : Role) (s : State) : (releaseIfHeld r s).sdreq = s.sdreq := by
  unfold releaseIfHeld; split <;> simp

@[simp] theorem releaseIfHeld_lastres (r : Role) (s : State) : (releaseIfHeld r s).lastres = s.lastres := by
  unfold releaseIfHeld; split <;> simp

@[simp] theorem releaseIfHeld_sr (r : Role) (s : State) : (releaseIfHeld r s).sr = s.sr := by
  unfold releaseIfHeld; split <;> simp

@[simp] theorem releaseIfHeld_clkv (r : Role) (s : State) : (releaseIfHeld r s).clkv = s.clkv := by
  unfold releaseIfHeld; split <;> simp

@[simp] theorem releaseIfHeld_bitn (r : Role) (s : State) : (releaseIfHeld r s).bitn = s.bitn := by
  unfold releaseIfHeld; split <;> simp

@[simp] theorem releaseIfHeld_page (r : Role) (s : State) : (releaseIfHeld r s).page = s.page := by
  unfold releaseIfHeld; split <;> simp

@[simp] theorem releaseIfHeld_col (r : Role) (s : State) : (releaseIfHeld r s).col = s.col := by
  unfold releaseIfHeld; split <;> simp

@[simp] theorem releaseIfHeld_initi (r : Role) (s : State) : (releaseIfHeld r s).initi = s.initi := by
  unfold releaseIfHeld; split <;> simp

@[simp] theorem releaseIfHeld_chi (r : Role) (s : State) : (releaseIfHeld r s).chi = s.chi := by
  unfold releaseIfHeld; split <;> simp

@[simp] theorem releaseIfHeld_gcol (r : Role) (s : State) : (releaseIfHeld r s).gcol = s.gcol := by
  unfold releaseIfHeld; split <;> simp

@[simp] theorem releaseIfHeld_pb (r : Role) (s : State) : (releaseIfHeld r s).pb = s.pb := by
  unfold releaseIfHeld; split <;> simp

@[simp] theorem releaseIfHeld_fb (r : Role) (s : State) : (releaseIfHeld r s).fb = s.fb := by
  unfold releaseIfHeld; split <;> simp

@[simp] theorem releaseIfHeld_tx (r : Role) (s : State) : (releaseIfHeld r s).tx = s.tx := by
  unfold releaseIfHeld; split <;> simp

@[simp] theorem releaseIfHeld_wire (r : Role) (s : State) : (releaseIfHeld r s).wire = s.wire := by
  unfold releaseIfHeld; split <;> simp

@[simp] theorem releaseIfHeld_params (r : Role) (s : State) : (releaseIfHeld r s).params = s.params := by
  unfold releaseIfHeld; split <;> simp

@[simp] theorem releaseIfHeld_inbox (r : Role) (s : State) : (releaseIfHeld r s).inbox = s.inbox := by
  unfold releaseIfHeld; split <;> simp

end Machine

/-! ## The events of the steps -/

theorem issued_acquireAll (s : State) : Issued acquireEvents s (acquireAll s) :=
  issued_forRoles (rs := roleOrder) (fun r t => issued_acquirePin r t) s

theorem issued_directAll (s : State) : Issued directEvents s (directAll s) :=
  issued_forRoles (rs := roleOrder) (fun r t => issued_directPin (powerUpDir r) r t) s

theorem issued_assertLines (s : State) : Issued (assertEvents s.params) s (assertLines s) :=
  (issued_pwrite .bl blOn s).trans (issued_pwrite .cs s.params.csActive _)

theorem issued_displayReset (s : State) : Issued resetEvents s (displayReset s) := by
  have h := fun (t : State) v => (issued_pwrite .rst v t).trans (issued_delay resetDelayMs (pwrite .rst v t))
  have h0 := issued_pwrite .dc false s
  have h1 := h0.trans (h _ false)
  have h2 := h1.trans (h _ true)
  exact h2.trans (h _ false)

/-- The list of a loop over all indexes of a vector is the list over the vector. -/
theorem flatMap_finRange_get {n : Nat} {α β : Type} (v : Vector α n) (g : α → List β) :
    (List.finRange n).flatMap (fun i => g v[i]) = v.toList.flatMap g := by
  have : v.toList = (List.finRange n).map fun i => v[i] := by
    apply List.ext_getElem <;> simp
  rw [this, List.flatMap_map]

theorem issued_initializeDisplay (s : State) : Issued (initEvents s.params) s (initializeDisplay s) := by
  have h := issued_forEach (Q := fun t => t.params = s.params)
    (f := fun (i : Fin 25) t => sendByte t.params.initSeq[i] { t with initi := i })
    (ev := fun i => sessionByteEvents s.params s.params.initSeq[i])
    (fun i t ht => by
      have := issued_sendByte t.params.initSeq[i] { t with initi := i }
      simp only [ht] at this ⊢
      exact this.congr_left ⟨rfl, rfl, rfl, rfl, rfl⟩)
    (fun i t ht => by simpa using ht) (s := s) rfl
  rw [flatMap_finRange_get] at h
  exact h

end Sys2Proof
end

