-- ==== Sys2Proof/Laws/Draw.lean ====
section
/-! SUPPORT. Pages, frames and text lines: the events and the WIRE entries of each. -/

namespace Sys2Proof

open Sys2Proof.Machine

/-- The WIRE entries of bytes sent with the session's mode and order at one level of DC. -/
def sessionEntries (p : Params) (dc : Level) (bytes : List Byte) : List WireEntry :=
  bytes.map fun v => ⟨dc, v, p.cfgMode, p.cfgOrder⟩

/-- The column bytes of page p of a page buffer. -/
def pageData (pb : Memory) (p : Fin 8) : List Byte := (List.finRange 128).map fun (x : Fin 128) => pageRead pb p x

theorem issued_sendColumn (p : Fin 8) (x : Fin 128) (s : State) :
    Issued (sessionByteEvents s.params (pageRead s.pb p x)) s (sendColumn p x s) :=
  (issued_sendByte (pageRead s.pb p x) { s with col := x }).congr_left ⟨rfl, rfl, rfl, rfl, rfl⟩

theorem issued_sendPage (p : Fin 8) (s : State) :
    Issued (pageEvents s.params (BitVec.ofNat 3 p) (pageData s.pb p)) s (sendPage p s) := by
  have h0 : Issued (preambleEvents s.params (BitVec.ofNat 3 p)) s
      (preamble (BitVec.ofNat 3 p) { s with page := p }) :=
    (issued_preamble (BitVec.ofNat 3 p) { s with page := p }).congr_left ⟨rfl, rfl, rfl, rfl, rfl⟩
  have h1 := issued_forEach (Q := fun t => t.params = s.params ∧ t.pb = s.pb) (f := sendColumn p)
    (ev := fun x => sessionByteEvents s.params (pageRead s.pb p x))
    (fun x t ht => by
      have := issued_sendColumn p x t
      rwa [ht.1, ht.2] at this)
    (fun x t ht => by simpa using ht) (s := preamble (BitVec.ofNat 3 p) { s with page := p }) (by simp)
  have h2 := h0.trans h1
  rw [pageEvents, pageData, List.flatMap_map]
  exact h2

theorem issued_sendFrame (s : State) :
    Issued ((List.finRange 8).flatMap fun (p : Fin 8) => pageEvents s.params (BitVec.ofNat 3 p) (pageData s.pb p)) s
      (forEach 8 sendPage s) :=
  issued_forEach (Q := fun t => t.params = s.params ∧ t.pb = s.pb) (f := sendPage)
    (fun p t ht => by
      have := issued_sendPage p t
      rwa [ht.1, ht.2] at this)
    (fun p t ht => by simpa using ht) ⟨rfl, rfl⟩

/-- What one glyph column sends: its byte, or nothing for a code without a glyph. -/
def columnBytes (p : Params) (inv : Bool) (c : Byte) (j : Fin 8) : List Byte :=
  match glyphIndex c with
  | some g => [invertIf inv (glyphColumn (glyphEntry p g) j)]
  | none => []

theorem charBytes_eq (p : Params) (inv : Bool) (c : Byte) :
    charBytes p inv c = (List.finRange 8).flatMap (columnBytes p inv c) := by
  unfold charBytes columnBytes
  cases glyphIndex c with
  | none => rfl
  | some g => rfl

theorem issued_sendGlyphColumn (inv : Bool) (i : Fin 16) (j : Fin 8) (s : State) :
    Issued ((columnBytes s.params inv (Memory.read s.tx i) j).flatMap (sessionByteEvents s.params)) s
      (sendGlyphColumn inv i j s) := by
  unfold sendGlyphColumn columnBytes
  split
  · rename_i g hg
    simp only [hg, List.flatMap_cons, List.flatMap_nil, List.append_nil]
    exact (issued_sendByte _ { s with gcol := j }).congr_left ⟨rfl, rfl, rfl, rfl, rfl⟩
  · rename_i hg
    simp only [hg, List.flatMap_nil]
    exact Issued.refl s

theorem issued_sendChar (inv : Bool) (i : Fin 16) (s : State) :
    Issued ((charBytes s.params inv (Memory.read s.tx i)).flatMap (sessionByteEvents s.params)) s
      (sendChar inv i s) := by
  have h := issued_forEach (Q := fun t => t.params = s.params ∧ t.tx = s.tx) (f := sendGlyphColumn inv i)
    (ev := fun j => (columnBytes s.params inv (Memory.read s.tx i) j).flatMap (sessionByteEvents s.params))
    (fun j t ht => by
      have := issued_sendGlyphColumn inv i j t
      rwa [ht.1, ht.2] at this)
    (fun j t ht => by simpa using ht) (s := { s with chi := i }) ⟨rfl, rfl⟩
  rw [charBytes_eq, List.flatMap_assoc]
  exact h.congr_left ⟨rfl, rfl, rfl, rfl, rfl⟩

/-- The line a text memory holds. -/
def textOf (tx : Memory) : List Byte := (List.finRange 16).map fun (i : Fin 16) => Memory.read tx i

theorem issued_sendLine (inv : Bool) (s : State) :
    Issued ((lineBytes s.params inv (textOf s.tx)).flatMap (sessionByteEvents s.params)) s
      (forEach 16 (sendChar inv) s) := by
  have h := issued_forEach (Q := fun t => t.params = s.params ∧ t.tx = s.tx) (f := sendChar inv)
    (ev := fun i => (charBytes s.params inv (Memory.read s.tx i)).flatMap (sessionByteEvents s.params))
    (fun i t ht => by
      have := issued_sendChar inv i t
      rwa [ht.1, ht.2] at this)
    (fun i t ht => by simpa using ht) (s := s) ⟨rfl, rfl⟩
  rw [lineBytes, textOf, List.flatMap_map, List.flatMap_assoc]
  exact h

/-! ## What a load makes readable -/

theorem textOf_load {tx : Memory} {line : List Byte} (h : line.length = 16) : textOf (tx.load line) = line := by
  apply List.ext_getElem
  · simp [textOf, h]
  · intro i h1 h2
    have hi : i < 16 := by omega
    simp [textOf, Memory.read_load, h2]

theorem pixel_load {fb : Memory} {payload : List Byte} (h : payload.length = 1024) {row col : Nat}
    (hr : row < 64) (hc : col < 128) :
    pixel (fb.load payload) row col = payloadBit payload (row * 128 + col) := by
  unfold pixel payloadBit
  rw [Memory.read_load, if_pos (by omega)]

theorem pageRead_toPages {fb pb : Memory} {p x : Nat} (hp : p < 8) (hx : x < 128) :
    pageRead (toPages fb pb) p x = pageByte fb p x := by
  rw [pageRead, read_toPages, if_pos (by omega), show (p * 128 + x) / 128 = p by omega,
    show (p * 128 + x) % 128 = x by omega]

theorem getLsbD_pageByte (fb : Memory) {p x k : Nat} (hk : k < 8) :
    (pageByte fb p x).getLsbD k = pixel fb (8 * p + k) x := by
  rw [pageByte, getLsbD_byteOfBits _ hk]

/-- The bytes DRAWFRAME sends for a page are the transposed pixels of the payload. -/
theorem pageData_frame {fb pb : Memory} {payload : List Byte} (h : payload.length = 1024) (p : Fin 8) :
    pageData (toPages (fb.load payload) pb) p = framePage payload p := by
  apply List.ext_getElem
  · simp [pageData, framePage]
  · intro x h1 h2
    have hx : x < 128 := by simpa [pageData] using h1
    have hp := p.isLt
    simp only [pageData, framePage, List.getElem_map, List.getElem_finRange, List.getElem_range, Fin.val_cast]
    rw [pageRead_toPages hp hx]
    apply BitVec.eq_of_getLsbD_eq
    intro k hk
    rw [getLsbD_pageByte _ hk, getLsbD_byteOfBits _ hk, pixel_load h (by omega) hx]

/-! ## WIRE -/

@[simp] theorem wireLog_sendByte (v : Byte) (s : State) :
    (sendByte v s).wireLog = s.wireLog ++ sessionEntries s.params s.lvl.dc [v] := by
  simp [State.wireLog, sessionEntries]

/-- A preamble sends its three addressing bytes at the level its first write left DC at. -/
theorem wireLog_preamble (p : BitVec 3) (s : State) :
    (preamble p s).wireLog =
      s.wireLog ++ sessionEntries s.params (pwrite .dc false s).lvl.dc (addressBytes p) := by
  have hw : ∀ (r : Role) (v : Bool) (t : State), (pwrite r v t).wireLog = t.wireLog := fun r v t => by
    simp [State.wireLog]
  simp [preamble, hw, sendSetPage, sendSetColLo, sendSetColHi, sessionEntries, addressBytes, setPageByte_eq,
    setColLoByte, setColHiByte]

/-- The level a write of DC leaves. -/
theorem pwrite_dc_lvl (v : Bool) (s : State) :
    (pwrite .dc v s).lvl.dc = match s.answerAt 0 with | .ok => Level.ofBool v | .fail => .unknown := by
  rw [pwrite, issue_call rfl]
  cases s.answerAt 0 <;> rfl

theorem preamble_lvl_dc (p : BitVec 3) (s : State) :
    (preamble p s).lvl.dc =
      match s.answerAt (calls (preambleEvents s.params p) - 1) with
      | .ok => .high
      | .fail => .unknown := by
  have h0 := issued_pwrite .dc false s
  have h1 := h0.trans (issued_sendByte (setPageByte p) _)
  have h2 := h1.trans (issued_sendByte setColLoByte _)
  have h3 := h2.trans (issued_sendByte setColHiByte _)
  have hlast := h3.answerAt 0
  have hc : calls (preambleEvents s.params p) - 1 =
      calls ([PortEvent.write .dc false] ++ sessionByteEvents s.params (setPageByte p) ++
        sessionByteEvents s.params setColLoByte ++ sessionByteEvents s.params setColHiByte) := by
    rw [preambleEvents, calls_append, calls_append]
    simp [addressBytes, setPageByte_eq, setColLoByte, setColHiByte, calls, PortEvent.role?]
    omega
  rw [hc]
  have : preamble p s = pwrite .dc true (sendByte setColHiByte (sendByte setColLoByte
      (sendByte (setPageByte p) (pwrite .dc false s)))) := rfl
  rw [this, pwrite_dc_lvl]
  simp only [sendByte_params, pwrite_params, Nat.add_zero] at hlast
  rw [hlast]
  rfl

end Sys2Proof
end

