-- ==== Sys2Proof/Laws/Step.lean ====
section
/-! SUPPORT. What a step can do, once: its five decisions, and what each instruction's meaning is. -/

namespace Sys2Proof

open Sys2Proof.Machine

theorem step_of_hardReset {s : State} {rest : List Input} (h : s.inbox = .hardReset :: rest) :
    step s = .next (hardwareReset (withInbox rest s)) := by
  have : nextAction s.sdreq s.inbox = .hardwareReset rest := by rw [h]; rfl
  rw [step, this]

theorem step_of_request {s : State} {rest : List Input} (h : s.inbox = .shutdown :: rest) :
    step s = .next (raiseRequest (withInbox rest s)) := by
  have : nextAction s.sdreq s.inbox = .raiseRequest rest := by rw [h]; rfl
  rw [step, this]

/-- A pending request is taken unless a reset or another request stands at the head of the inbox. -/
theorem step_of_sdreq {s : State} (hs : s.sdreq = true) (h1 : s.inbox.head? ≠ some .hardReset)
    (h2 : s.inbox.head? ≠ some .shutdown) : step s = .next (takeShutdown s) := by
  have : nextAction s.sdreq s.inbox = .takeShutdown := by
    rw [hs]
    unfold nextAction
    split <;> simp_all
  rw [step, this]

theorem step_of_packet {s : State} {b : List Byte} {rest : List Input} (hs : s.sdreq = false)
    (h : s.inbox = .packet b :: rest) : step s = runPacket b (withInbox rest s) := by
  have : nextAction s.sdreq s.inbox = .packet b rest := by rw [h, hs]; rfl
  rw [step, this]

theorem step_of_idle {s : State} {rest : List Input} (hs : s.sdreq = false) (h : s.inbox = .idle :: rest) :
    step s = .next (withInbox rest s) := by
  have : nextAction s.sdreq s.inbox = .stayIdle rest := by rw [h, hs]; rfl
  rw [step, this]

theorem step_of_nil {s : State} (hs : s.sdreq = false) (h : s.inbox = []) : step s = .next s := by
  have : nextAction s.sdreq s.inbox = .stayIdle [] := by rw [h, hs]; rfl
  rw [step, this]
  simp [withInbox, ← h]

theorem runPacket_ok {b : List Byte} {i : Instr} (h : decode b = .ok i) (s : State) :
    runPacket b s = exec i s := by rw [runPacket, h]

theorem runPacket_error {b : List Byte} {e : Malformed} (h : decode b = .error e) (s : State) :
    runPacket b s = .next (rejectMalformed s) := by rw [runPacket, h]

/-- Everything a step can do. -/
theorem step_cases {s t : State} (h : step s = .next t) :
    (∃ rest, s.inbox = .hardReset :: rest ∧ t = hardwareReset (withInbox rest s)) ∨
    (∃ rest, s.inbox = .shutdown :: rest ∧ t = raiseRequest (withInbox rest s)) ∨
    (s.sdreq = true ∧ t = takeShutdown s) ∨
    (∃ b rest i, s.sdreq = false ∧ s.inbox = .packet b :: rest ∧ decode b = .ok i ∧
      exec i (withInbox rest s) = .next t) ∨
    (∃ b rest e, s.sdreq = false ∧ s.inbox = .packet b :: rest ∧ decode b = .error e ∧
      t = rejectMalformed (withInbox rest s)) ∨
    (∃ rest, t = withInbox rest s) := by
  rcases hin : s.inbox with _ | ⟨_ | _ | _ | _, rest⟩ <;> cases hs : s.sdreq
  case nil.false =>
    rw [step_of_nil hs hin] at h
    cases h
    exact .inr (.inr (.inr (.inr (.inr ⟨[], by simp [withInbox, ← hin]⟩))))
  case cons.packet.false b =>
    rw [step_of_packet hs hin] at h
    cases hd : decode b with
    | ok i =>
      rw [runPacket_ok hd] at h
      exact .inr (.inr (.inr (.inl ⟨b, rest, i, rfl, rfl, hd, h⟩)))
    | error e =>
      rw [runPacket_error hd] at h
      cases h
      exact .inr (.inr (.inr (.inr (.inl ⟨b, rest, e, rfl, rfl, hd, rfl⟩))))
  case cons.idle.false =>
    rw [step_of_idle hs hin] at h
    cases h
    exact .inr (.inr (.inr (.inr (.inr ⟨rest, rfl⟩))))
  case cons.hardReset.false | cons.hardReset.true =>
    rw [step_of_hardReset hin] at h
    cases h
    exact .inl ⟨rest, rfl, rfl⟩
  case cons.shutdown.false | cons.shutdown.true =>
    rw [step_of_request hin] at h
    cases h
    exact .inr (.inl ⟨rest, rfl, rfl⟩)
  case nil.true | cons.packet.true | cons.idle.true =>
    rw [step_of_sdreq hs (by simp [hin]) (by simp [hin])] at h
    cases h
    exact .inr (.inr (.inl ⟨rfl, rfl⟩))

/-! ## The refused ends -/

/-- A rejected packet leaves everything but LASTRES. -/
theorem rejectMalformed_eq (s : State) : rejectMalformed s = rejectedMalformed s := rfl

/-- A command that is refused before its first port call leaves everything but PFAIL and LASTRES. -/
theorem raise_beginCommand (k : ErrorKind) (s : State) : raise k 0#7 (beginCommand s) = refusedWith k s := rfl

theorem spiLinesReady_iff (s : State) : spiLinesReady s = true ↔ SpiLinesHeld s := by
  simp [spiLinesReady, SpiLinesHeld, and_assoc]

theorem frameSizeOk_iff (w h : Byte) (payload : List Byte) :
    frameSizeOk w h payload = true ↔ FrameOperandsValid w h payload := by
  rw [frameSizeOk, Bool.and_eq_true, Bool.and_eq_true, decide_eq_true_iff, decide_eq_true_iff,
    decide_eq_true_iff, FrameOperandsValid, ← BitVec.toNat_inj, ← BitVec.toNat_inj, and_assoc]
  rfl

theorem glyphIndex_isSome_iff (c : Byte) : (glyphIndex c).isSome = true ↔ 0x20 ≤ c.toNat ∧ c.toNat ≤ 0x7E := by
  unfold glyphIndex
  split <;> simp_all

theorem textOperandsOk_iff (rsv : BitVec 3) (row : BitVec 4) (line : List Byte) :
    textOperandsOk rsv row line = true ↔ TextOperandsValid rsv row line := by
  simp only [textOperandsOk, TextOperandsValid, Bool.and_eq_true, decide_eq_true_eq, List.all_eq_true,
    glyphIndex_isSome_iff, and_assoc]
  rfl

/-- The mode operand decodes exactly in range, to its two low bits. -/
theorem decodeMode_of_le {b : Byte} (h : b.toNat ≤ 3) : decodeMode b = some (b.setWidth 2) := if_pos h

theorem decodeMode_of_gt {b : Byte} (h : 3 < b.toNat) : decodeMode b = none := if_neg (Nat.not_le.mpr h)

theorem decodeOrder_of_gt {b : Byte} (h : 1 < b.toNat) : decodeOrder b = none := by
  unfold decodeOrder
  rw [if_neg (by rintro rfl; exact absurd h (by decide)), if_neg (by rintro rfl; exact absurd h (by decide))]

/-- How DRAWFRAME, DRAWTEXT and WRITEBYTE end. -/
theorem endWithPortCheck_lastres (s : State) :
    (endWithPortCheck s).lastres =
      resultWord (if s.pfail = 0#7 then none else some .pinAccessError) s.pfail (endWithPortCheck s) := by
  by_cases h : s.pfail = 0#7
  · simp [endWithPortCheck, h, resultWord]
  · simp [endWithPortCheck, h, resultWord]

/-! ## What each meaning is -/

theorem exec_writebyte {data mode order : Byte} {o : BitOrder} {s : State} (h : SpiLinesHeld s)
    (hm : mode.toNat ≤ 3) (ho : decodeOrder order = some o) :
    exec (.writebyte data mode order) s =
      .next (endWithPortCheck (writeByte data (mode.setWidth 2) o (beginCommand s))) := by
  have hr : spiLinesReady (beginCommand s) = true := (spiLinesReady_iff _).mpr h
  simp only [exec, execWritebyte, writeByteCommand, hr, if_true, decodeMode_of_le hm, ho]

theorem exec_writebyte_notHeld {data mode order : Byte} {s : State} (h : ¬SpiLinesHeld s) :
    exec (.writebyte data mode order) s = .next (refusedWith .sequenceViolation s) := by
  have hr : ¬spiLinesReady (beginCommand s) = true := fun h' => h ((spiLinesReady_iff _).mp h')
  simp only [exec, execWritebyte, writeByteCommand, if_neg hr, raise_beginCommand]

theorem exec_writebyte_invalid {data mode order : Byte} {s : State} (h : SpiLinesHeld s)
    (hbad : decodeMode mode = none ∨ decodeOrder order = none) :
    exec (.writebyte data mode order) s = .next (refusedWith .invalidArgument s) := by
  have hr : spiLinesReady (beginCommand s) = true := (spiLinesReady_iff _).mpr h
  simp only [exec, execWritebyte, writeByteCommand, hr, if_true]
  rcases hbad with h | h
  · simp only [h, raise_beginCommand]
  · rw [h]
    cases decodeMode mode <;> rfl

theorem exec_drawframe {w h : Byte} {payload : List Byte} {s : State} (hl : s.life = .ready)
    (hv : FrameOperandsValid w h payload) :
    exec (.drawframe w h payload) s =
      .next (endWithPortCheck (forEach 8 sendPage (convertFrame (loadFrame payload (beginCommand s))))) := by
  have hl' : (beginCommand s).life = .ready := hl
  simp only [exec, execDrawframe, drawFrameCommand, hl', if_true, (frameSizeOk_iff _ _ _).mpr hv]

theorem exec_drawframe_notReady {w h : Byte} {payload : List Byte} {s : State} (hl : s.life ≠ .ready) :
    exec (.drawframe w h payload) s = .next (refusedWith .sequenceViolation s) := by
  have hl' : ¬(beginCommand s).life = .ready := hl
  simp only [exec, execDrawframe, drawFrameCommand, if_neg hl', raise_beginCommand]

theorem exec_drawframe_invalid {w h : Byte} {payload : List Byte} {s : State} (hl : s.life = .ready)
    (hv : ¬FrameOperandsValid w h payload) :
    exec (.drawframe w h payload) s = .next (refusedWith .invalidArgument s) := by
  have hl' : (beginCommand s).life = .ready := hl
  have hv' : ¬frameSizeOk w h payload = true := fun h => hv ((frameSizeOk_iff _ _ _).mp h)
  simp only [exec, execDrawframe, drawFrameCommand, hl', if_true, if_neg hv', raise_beginCommand]

theorem exec_drawtext {inv : Bool} {rsv : BitVec 3} {row : BitVec 4} {line : List Byte} {s : State}
    (hn : line.length = 16) (hl : s.life = .ready) (hv : TextOperandsValid rsv row line) :
    exec (.drawtext inv rsv row line) s =
      .next (endWithPortCheck (forEach 16 (sendChar inv)
        (preamble (row.setWidth 3) (loadText line (beginCommand s))))) := by
  have hl' : (beginCommand s).life = .ready := hl
  simp only [exec, execDrawtext, drawTextCommand, hn, ne_eq, not_true_eq_false, if_false, hl', if_true,
    (textOperandsOk_iff _ _ _).mpr hv]

theorem exec_drawtext_malformed {inv : Bool} {rsv : BitVec 3} {row : BitVec 4} {line : List Byte} {s : State}
    (hn : line.length ≠ 16) : exec (.drawtext inv rsv row line) s = .next (refusedWith .invalidArgument s) := by
  simp only [exec, execDrawtext, drawTextCommand, ne_eq, hn, not_false_eq_true, if_true, raise_beginCommand]

theorem exec_drawtext_notReady {inv : Bool} {rsv : BitVec 3} {row : BitVec 4} {line : List Byte} {s : State}
    (hn : line.length = 16) (hl : s.life ≠ .ready) :
    exec (.drawtext inv rsv row line) s = .next (refusedWith .sequenceViolation s) := by
  have hl' : ¬(beginCommand s).life = .ready := hl
  simp only [exec, execDrawtext, drawTextCommand, hn, ne_eq, not_true_eq_false, if_false, if_neg hl',
    raise_beginCommand]

theorem exec_drawtext_invalid {inv : Bool} {rsv : BitVec 3} {row : BitVec 4} {line : List Byte} {s : State}
    (hn : line.length = 16) (hl : s.life = .ready) (hv : ¬TextOperandsValid rsv row line) :
    exec (.drawtext inv rsv row line) s = .next (refusedWith .invalidArgument s) := by
  have hl' : (beginCommand s).life = .ready := hl
  have hv' : ¬textOperandsOk rsv row line = true := fun h => hv ((textOperandsOk_iff _ _ _).mp h)
  simp only [exec, execDrawtext, drawTextCommand, hn, ne_eq, not_true_eq_false, if_false, hl', if_true,
    if_neg hv', raise_beginCommand]

theorem exec_powerup_refused {s : State} (hl : s.life ≠ .uninitialized) :
    exec .powerup s = .next (refusedWith .sequenceViolation s) := by
  have hl' : ¬(beginCommand s).life = .uninitialized := hl
  simp only [exec, execPowerup, powerUpCommand, if_neg hl', raise_beginCommand]

end Sys2Proof
end

