-- ==== Sys2Proof/Laws/Frames.lean ====
section
/-! SUPPORT. DRAWFRAME and DRAWTEXT as wholes: everything the sending of a frame or a text line does. -/

namespace Sys2Proof

open Sys2Proof.Machine

/-! ## Whole draws -/

@[simp] theorem length_framePage (payload : List Byte) (p : Nat) : (framePage payload p).length = 128 := by
  simp [framePage]

theorem length_pageEvents (p : Params) (pg : BitVec 3) (data : List Byte) :
    (pageEvents p pg data).length = 2 + (3 + data.length) * eventsPerByte p.cfgMode := by
  simp only [pageEvents, preambleEvents, List.length_append, length_sessionBytes]
  simp only [addressBytes, List.length_cons, List.length_nil]
  ring

/-- "16 + 1048 B" events of a frame (`41_sh1106_controller.md` R99). -/
theorem length_frameEvents (p : Params) (payload : List Byte) :
    (frameEvents p payload).length = 16 + 1048 * eventsPerByte p.cfgMode := by
  simp only [frameEvents, List.range_succ, List.range_zero, List.nil_append, List.flatMap_append,
    List.flatMap_singleton, List.length_append, length_pageEvents, length_framePage]
  ring

theorem length_charBytes {p : Params} {inv : Bool} {c : Byte} (h : 0x20 ≤ c.toNat ∧ c.toNat ≤ 0x7E) :
    (charBytes p inv c).length = 8 := by
  simp [charBytes, glyphIndex, h]

theorem length_lineBytes {p : Params} {inv : Bool} {line : List Byte}
    (h : ∀ c ∈ line, 0x20 ≤ c.toNat ∧ c.toNat ≤ 0x7E) : (lineBytes p inv line).length = 8 * line.length := by
  unfold lineBytes
  induction line with
  | nil => rfl
  | cons c cs ih =>
    rw [List.flatMap_cons, List.length_append, length_charBytes (h c (by simp)),
      ih fun d hd => h d (by simp [hd]), List.length_cons]
    ring

/-- The state DRAWFRAME has sent its last page in, before its result. -/
@[irreducible] def frameSent (payload : List Byte) (s : State) : State :=
  forEach 8 sendPage (convertFrame (loadFrame payload (beginCommand s)))

theorem exec_drawframe_sent {w h : Byte} {payload : List Byte} {s : State} (hl : s.life = .ready)
    (hv : FrameOperandsValid w h payload) :
    exec (.drawframe w h payload) s = .next (endWithPortCheck (frameSent payload s)) := by
  rw [exec_drawframe hl hv, frameSent]

theorem Issued.of_buffers {es : List PortEvent} {u t : State} {f p : Memory}
    (h : Issued es { u with fb := f, pb := p } t) : Issued es u t := h.congr_left ⟨rfl, rfl, rfl, rfl, rfl⟩

theorem Issued.of_text {es : List PortEvent} {u t : State} {x : Memory} (h : Issued es { u with tx := x } t) :
    Issued es u t := h.congr_left ⟨rfl, rfl, rfl, rfl, rfl⟩

theorem issued_frameSent {payload : List Byte} (h : payload.length = 1024) (s : State) :
    Issued (frameEvents s.params payload) (beginCommand s) (frameSent payload s) := by
  have h1 := issued_sendFrame (convertFrame (loadFrame payload (beginCommand s)))
  have h2 := Issued.of_buffers (u := beginCommand s) h1
  have e : (List.finRange 8).flatMap (fun (p : Fin 8) =>
      pageEvents s.params (BitVec.ofNat 3 p) (pageData (toPages (s.fb.load payload) s.pb) p)) =
      frameEvents s.params payload := by
    simp only [pageData_frame h]
    rfl
  rw [← e, frameSent]
  exact h2

/-- The state DRAWTEXT has sent its last column in, before its result. -/
@[irreducible] def textSent (inv : Bool) (row : BitVec 4) (line : List Byte) (s : State) : State :=
  forEach 16 (sendChar inv) (preamble (row.setWidth 3) (loadText line (beginCommand s)))

theorem exec_drawtext_sent {inv : Bool} {rsv : BitVec 3} {row : BitVec 4} {line : List Byte} {s : State}
    (hn : line.length = 16) (hl : s.life = .ready) (hv : TextOperandsValid rsv row line) :
    exec (.drawtext inv rsv row line) s = .next (endWithPortCheck (textSent inv row line s)) := by
  unfold textSent
  exact exec_drawtext hn hl hv

theorem issued_textSent {line : List Byte} (h : line.length = 16) (inv : Bool) (row : BitVec 4) (s : State) :
    Issued (textEvents s.params inv row line) (beginCommand s) (textSent inv row line s) := by
  have h1 := issued_preamble (row.setWidth 3) (loadText line (beginCommand s))
  have h2 := issued_sendLine inv (preamble (row.setWidth 3) (loadText line (beginCommand s)))
  have h3 := Issued.of_text (u := beginCommand s) (h1.trans h2)
  have htx : textOf (preamble (row.setWidth 3) (loadText line (beginCommand s))).tx = line := by
    simpa [loadText] using textOf_load (tx := s.tx) h
  rw [htx, preamble_params] at h3
  unfold textSent
  exact h3

/-! ## What the draws leave -/

namespace Machine

@[simp] theorem frameSent_life (payload : List Byte) (s : State) : (frameSent payload s).life = s.life := by
  unfold frameSent
  exact (forEach_same (·.life) (fun p t => sendPage_life p t) _).trans rfl

@[simp] theorem frameSent_inited (payload : List Byte) (s : State) : (frameSent payload s).inited = s.inited := by
  unfold frameSent
  exact (forEach_same (·.inited) (fun p t => sendPage_inited p t) _).trans rfl

@[simp] theorem frameSent_acq (payload : List Byte) (s : State) : (frameSent payload s).acq = s.acq := by
  unfold frameSent
  exact (forEach_same (·.acq) (fun p t => sendPage_acq p t) _).trans rfl

@[simp] theorem frameSent_dir (payload : List Byte) (s : State) : (frameSent payload s).dir = s.dir := by
  unfold frameSent
  exact (forEach_same (·.dir) (fun p t => sendPage_dir p t) _).trans rfl

@[simp] theorem frameSent_sdreq (payload : List Byte) (s : State) : (frameSent payload s).sdreq = s.sdreq := by
  unfold frameSent
  exact (forEach_same (·.sdreq) (fun p t => sendPage_sdreq p t) _).trans rfl

@[simp] theorem frameSent_initi (payload : List Byte) (s : State) : (frameSent payload s).initi = s.initi := by
  unfold frameSent
  exact (forEach_same (·.initi) (fun p t => sendPage_initi p t) _).trans rfl

@[simp] theorem frameSent_chi (payload : List Byte) (s : State) : (frameSent payload s).chi = s.chi := by
  unfold frameSent
  exact (forEach_same (·.chi) (fun p t => sendPage_chi p t) _).trans rfl

@[simp] theorem frameSent_gcol (payload : List Byte) (s : State) : (frameSent payload s).gcol = s.gcol := by
  unfold frameSent
  exact (forEach_same (·.gcol) (fun p t => sendPage_gcol p t) _).trans rfl

@[simp] theorem frameSent_tx (payload : List Byte) (s : State) : (frameSent payload s).tx = s.tx := by
  unfold frameSent
  exact (forEach_same (·.tx) (fun p t => sendPage_tx p t) _).trans rfl

@[simp] theorem frameSent_params (payload : List Byte) (s : State) : (frameSent payload s).params = s.params := by
  unfold frameSent
  exact (forEach_same (·.params) (fun p t => sendPage_params p t) _).trans rfl

@[simp] theorem frameSent_inbox (payload : List Byte) (s : State) : (frameSent payload s).inbox = s.inbox := by
  unfold frameSent
  exact (forEach_same (·.inbox) (fun p t => sendPage_inbox p t) _).trans rfl

@[simp] theorem frameSent_fb (payload : List Byte) (s : State) : (frameSent payload s).fb = s.fb.load payload := by
  unfold frameSent
  exact (forEach_same (·.fb) (fun p t => sendPage_fb p t) _).trans rfl

@[simp] theorem frameSent_pb (payload : List Byte) (s : State) :
    (frameSent payload s).pb = toPages (s.fb.load payload) s.pb := by
  unfold frameSent
  exact (forEach_same (·.pb) (fun p t => sendPage_pb p t) _).trans rfl

@[simp] theorem textSent_life (inv : Bool) (row : BitVec 4) (line : List Byte) (s : State) :
    (textSent inv row line s).life = s.life := by
  unfold textSent
  exact (forEach_same (·.life) (fun i t => sendChar_life inv i t) _).trans (by simp [loadText])

@[simp] theorem textSent_inited (inv : Bool) (row : BitVec 4) (line : List Byte) (s : State) :
    (textSent inv row line s).inited = s.inited := by
  unfold textSent
  exact (forEach_same (·.inited) (fun i t => sendChar_inited inv i t) _).trans (by simp [loadText])

@[simp] theorem textSent_acq (inv : Bool) (row : BitVec 4) (line : List Byte) (s : State) :
    (textSent inv row line s).acq = s.acq := by
  unfold textSent
  exact (forEach_same (·.acq) (fun i t => sendChar_acq inv i t) _).trans (by simp [loadText])

@[simp] theorem textSent_dir (inv : Bool) (row : BitVec 4) (line : List Byte) (s : State) :
    (textSent inv row line s).dir = s.dir := by
  unfold textSent
  exact (forEach_same (·.dir) (fun i t => sendChar_dir inv i t) _).trans (by simp [loadText])

@[simp] theorem textSent_sdreq (inv : Bool) (row : BitVec 4) (line : List Byte) (s : State) :
    (textSent inv row line s).sdreq = s.sdreq := by
  unfold textSent
  exact (forEach_same (·.sdreq) (fun i t => sendChar_sdreq inv i t) _).trans (by simp [loadText])

@[simp] theorem textSent_page (inv : Bool) (row : BitVec 4) (line : List Byte) (s : State) :
    (textSent inv row line s).page = s.page := by
  unfold textSent
  exact (forEach_same (·.page) (fun i t => sendChar_page inv i t) _).trans (by simp [loadText])

@[simp] theorem textSent_col (inv : Bool) (row : BitVec 4) (line : List Byte) (s : State) :
    (textSent inv row line s).col = s.col := by
  unfold textSent
  exact (forEach_same (·.col) (fun i t => sendChar_col inv i t) _).trans (by simp [loadText])

@[simp] theorem textSent_initi (inv : Bool) (row : BitVec 4) (line : List Byte) (s : State) :
    (textSent inv row line s).initi = s.initi := by
  unfold textSent
  exact (forEach_same (·.initi) (fun i t => sendChar_initi inv i t) _).trans (by simp [loadText])

@[simp] theorem textSent_pb (inv : Bool) (row : BitVec 4) (line : List Byte) (s : State) :
    (textSent inv row line s).pb = s.pb := by
  unfold textSent
  exact (forEach_same (·.pb) (fun i t => sendChar_pb inv i t) _).trans (by simp [loadText])

@[simp] theorem textSent_fb (inv : Bool) (row : BitVec 4) (line : List Byte) (s : State) :
    (textSent inv row line s).fb = s.fb := by
  unfold textSent
  exact (forEach_same (·.fb) (fun i t => sendChar_fb inv i t) _).trans (by simp [loadText])

@[simp] theorem textSent_params (inv : Bool) (row : BitVec 4) (line : List Byte) (s : State) :
    (textSent inv row line s).params = s.params := by
  unfold textSent
  exact (forEach_same (·.params) (fun i t => sendChar_params inv i t) _).trans (by simp [loadText])

@[simp] theorem textSent_inbox (inv : Bool) (row : BitVec 4) (line : List Byte) (s : State) :
    (textSent inv row line s).inbox = s.inbox := by
  unfold textSent
  exact (forEach_same (·.inbox) (fun i t => sendChar_inbox inv i t) _).trans (by simp [loadText])

@[simp] theorem textSent_tx (inv : Bool) (row : BitVec 4) (line : List Byte) (s : State) :
    (textSent inv row line s).tx = s.tx.load line := by
  unfold textSent
  exact (forEach_same (·.tx) (fun i t => sendChar_tx inv i t) _).trans (by simp [loadText])

end Machine

/-! ## The bytes on the wire, whatever the port answers -/

/-- The bytes of WIRE. -/
def wireBytes (s : State) : List Byte := s.wireLog.map WireEntry.byte

theorem wireBytes_append (s t : State) (p : Params) (dc : Level) (bytes : List Byte)
    (h : t.wireLog = s.wireLog ++ sessionEntries p dc bytes) : wireBytes t = wireBytes s ++ bytes := by
  rw [wireBytes, h, List.map_append, sessionEntries, List.map_map]
  exact congrArg (wireBytes s ++ ·) (List.map_id _)

theorem wireBytes_sendByte (v : Byte) (s : State) : wireBytes (sendByte v s) = wireBytes s ++ [v] :=
  wireBytes_append _ _ _ _ _ (wireLog_sendByte v s)

theorem wireBytes_preamble (p : BitVec 3) (s : State) :
    wireBytes (preamble p s) = wireBytes s ++ addressBytes p :=
  wireBytes_append _ _ _ _ _ (wireLog_preamble p s)

/-- A loop sends what its turns send, in order. -/
theorem wireBytes_forEach {n : Nat} {f : Fin n → State → State} {ev : Fin n → List Byte} {Q : State → Prop}
    (hf : ∀ i t, Q t → wireBytes (f i t) = wireBytes t ++ ev i) (hQ : ∀ i t, Q t → Q (f i t)) {s : State}
    (hs : Q s) : wireBytes (forEach n f s) = wireBytes s ++ (List.finRange n).flatMap ev := by
  unfold forEach
  induction List.finRange n generalizing s with
  | nil => simp
  | cons i is ih =>
    rw [List.flatMap_cons, List.foldl_cons, ih (hQ i s hs), hf i s hs, List.append_assoc]

theorem wireBytes_sendPage (p : Fin 8) (s : State) :
    wireBytes (sendPage p s) = wireBytes s ++ (addressBytes (BitVec.ofNat 3 p) ++ pageData s.pb p) := by
  unfold sendPage
  rw [wireBytes_forEach (Q := fun t => t.pb = s.pb) (ev := fun (x : Fin 128) => [pageRead s.pb p x])
    (fun x t ht => by unfold sendColumn; rw [wireBytes_sendByte, ht]; rfl) (fun x t ht => by simpa using ht)
    (by simp), wireBytes_preamble, List.append_assoc, pageData, List.map_eq_flatMap]
  rfl

theorem wireBytes_frameSent {payload : List Byte} (h : payload.length = 1024) (s : State) :
    wireBytes (frameSent payload s) = wireBytes s ++
      (List.range 8).flatMap fun p => addressBytes (BitVec.ofNat 3 p) ++ framePage payload p := by
  unfold frameSent
  refine wireBytes_forEach (Q := fun t => t.pb = toPages (s.fb.load payload) s.pb)
    (ev := fun (p : Fin 8) => addressBytes (BitVec.ofNat 3 p) ++ framePage payload p)
    (fun p t ht => ?_) (fun p t ht => by simpa using ht) rfl
  rw [wireBytes_sendPage, ht, pageData_frame h]

theorem wireBytes_sendChar (inv : Bool) (i : Fin 16) (s : State) :
    wireBytes (sendChar inv i s) = wireBytes s ++ charBytes s.params inv (Memory.read s.tx i) := by
  unfold sendChar
  rw [charBytes_eq]
  refine wireBytes_forEach (Q := fun t => t.params = s.params ∧ t.tx = s.tx)
    (ev := columnBytes s.params inv (Memory.read s.tx i)) (fun j t ht => ?_)
    (fun j t ht => by simpa using ht) ⟨rfl, rfl⟩
  unfold sendGlyphColumn columnBytes
  rw [ht.2]
  cases glyphIndex (Memory.read s.tx i) with
  | none => simp
  | some g => simp only [ht.1]; exact wireBytes_sendByte _ _

theorem wireBytes_textSent {line : List Byte} (h : line.length = 16) (inv : Bool) (row : BitVec 4) (s : State) :
    wireBytes (textSent inv row line s) =
      wireBytes s ++ (addressBytes (row.setWidth 3) ++ lineBytes s.params inv line) := by
  unfold textSent
  have htx : (preamble (row.setWidth 3) (loadText line (beginCommand s))).tx = s.tx.load line := by
    simp [loadText]
  have hline : (List.finRange 16).flatMap (fun (i : Fin 16) =>
      charBytes s.params inv (Memory.read (s.tx.load line) i)) = lineBytes s.params inv line := by
    have e := congrArg (lineBytes s.params inv) (textOf_load (tx := s.tx) h)
    rw [← e, lineBytes, textOf, List.flatMap_map]
  rw [wireBytes_forEach (Q := fun t => t.params = s.params ∧ t.tx = s.tx.load line)
    (ev := fun (i : Fin 16) => charBytes s.params inv (Memory.read (s.tx.load line) i))
    (fun i t ht => by rw [wireBytes_sendChar, ht.1, ht.2]) (fun i t ht => by simpa using ht)
    ⟨by simp [loadText], htx⟩, wireBytes_preamble, List.append_assoc, hline]
  rfl

end Sys2Proof
end

