-- ==== Sys2Proof/Laws/PowerDown.lean ====
section
/-! SUPPORT. POWERDOWN and the shutdown request: the events, and what is held and directed afterwards. -/

namespace Sys2Proof

open Sys2Proof.Machine

theorem issued_driveLowIfHeld (rs : List Role) (s : State) :
    Issued ((rs.filter (roleBit s.acq)).map fun r => .write r false) s (forRoles rs driveLowIfHeld s) := by
  unfold forRoles
  induction rs generalizing s with
  | nil => exact Issued.refl s
  | cons r rs ih =>
    have h := ih (driveLowIfHeld r s)
    rw [driveLowIfHeld_acq] at h
    rw [List.foldl_cons]
    by_cases hr : roleBit s.acq r = true
    · have h1 : Issued [.write r false] s (driveLowIfHeld r s) := by
        rw [driveLowIfHeld, if_pos hr]
        exact issued_pwrite ..
      rw [List.filter_cons_of_pos hr, List.map_cons]
      exact h1.trans h
    · have h1 : driveLowIfHeld r s = s := by rw [driveLowIfHeld, if_neg hr]
      rw [List.filter_cons_of_neg hr]
      rwa [h1] at h ⊢

/-- The release batch: the held pins, in order, each dropped from ACQ and DIR whatever the answer. -/
theorem releaseIfHeld_batch {rs : List Role} (hn : rs.Nodup) (s : State) :
    Issued ((rs.filter (roleBit s.acq)).map .release) s (forRoles rs releaseIfHeld s) ∧
    (∀ q, roleBit (forRoles rs releaseIfHeld s).acq q = (roleBit s.acq q && !decide (q ∈ rs))) ∧
    (∀ q, (forRoles rs releaseIfHeld s).dir.get q =
      if q ∈ rs ∧ roleBit s.acq q = true then none else s.dir.get q) := by
  unfold forRoles
  induction rs generalizing s with
  | nil => exact ⟨Issued.refl s, by simp, by simp⟩
  | cons r rs ih =>
    obtain ⟨hr, hrs⟩ := List.nodup_cons.mp hn
    obtain ⟨h1, h2, h3⟩ := ih hrs (releaseIfHeld r s)
    have hacq : ∀ q, roleBit (releaseIfHeld r s).acq q = (roleBit s.acq q && !decide (q = r)) := by
      intro q
      unfold releaseIfHeld
      split
      · simp [releasePin, roleBit_clearRoleBit, Bool.and_comm]
      · rename_i hh
        by_cases hq : q = r
        · subst hq; simpa using hh
        · simp [hq]
    have hdir : ∀ q, (releaseIfHeld r s).dir.get q =
        if q = r ∧ roleBit s.acq q = true then none else s.dir.get q := by
      intro q
      unfold releaseIfHeld
      split
      · rename_i hh
        simp only [releasePin, Pins.get_set]
        by_cases hq : q = r
        · subst hq; simp [hh]
        · simp [hq]
      · rename_i hh
        by_cases hq : q = r
        · subst hq; simp [hh]
        · simp [hq]
    have hfilter : rs.filter (roleBit (releaseIfHeld r s).acq) = rs.filter (roleBit s.acq) := by
      apply List.filter_congr
      intro q hq
      rw [hacq, decide_eq_false (show ¬q = r from fun h => hr (h ▸ hq)), Bool.not_false, Bool.and_true]
    rw [hfilter] at h1
    rw [List.foldl_cons]
    refine ⟨?_, fun q => ?_, fun q => ?_⟩
    · by_cases hh : roleBit s.acq r = true
      · have h0 : Issued [.release r] s (releaseIfHeld r s) := by
          rw [releaseIfHeld, if_pos hh]
          exact issued_releasePin r s
        rw [List.filter_cons_of_pos hh, List.map_cons]
        exact h0.trans h1
      · have h0 : releaseIfHeld r s = s := by rw [releaseIfHeld, if_neg hh]
        rw [List.filter_cons_of_neg hh]
        rwa [h0] at h1 ⊢
    · rw [h2, hacq]
      by_cases hq : q = r <;> simp [hq]
    · rw [h3, hacq, hdir]
      by_cases hq : q = r
      · subst hq; simp [hr]
      · simp [hq]

/-- Everything POWERDOWN does, whatever the port answers: its events, nothing held, the held pins' directions
dropped, ShutDown, and the result `RESULT(Ok, x[PFAIL])`. -/
theorem powerDownCommand_spec (s : State) :
    Issued (powerDownEvents s.acq) s (powerDownCommand s) ∧ (powerDownCommand s).acq = 0#7 ∧
    (∀ r, (powerDownCommand s).dir.get r = if roleBit s.acq r = true then none else s.dir.get r) ∧
    (powerDownCommand s).life = .shutDown ∧ (powerDownCommand s).inited = false ∧
    (powerDownCommand s).lastres = resultWord none (powerDownCommand s).pfail (powerDownCommand s) := by
  have h0 := issued_driveLowIfHeld powerDownLines s
  have hacq : (forRoles powerDownLines driveLowIfHeld s).acq = s.acq :=
    forRoles_same (·.acq) (fun r t => driveLowIfHeld_acq r t) s
  have hdir : (forRoles powerDownLines driveLowIfHeld s).dir = s.dir :=
    forRoles_same (·.dir) (fun r t => driveLowIfHeld_dir r t) s
  obtain ⟨h1, h2, h3⟩ := releaseIfHeld_batch nodup_roleOrder (forRoles powerDownLines driveLowIfHeld s)
  rw [hacq] at h1 h2 h3
  rw [hdir] at h3
  refine ⟨(h0.trans h1).congr_right ⟨rfl, rfl, rfl, rfl, rfl⟩, ?_, fun r => ?_, rfl, rfl, rfl⟩
  · apply roleBit_ext
    intro r
    exact (h2 r).trans (by simp [mem_roleOrder])
  · exact (h3 r).trans (by simp [mem_roleOrder])

/-! ## What POWERDOWN leaves -/

namespace Machine

@[simp] theorem powerDownCommand_sdreq (s : State) : (powerDownCommand s).sdreq = s.sdreq :=
  (forRoles_same (·.sdreq) (fun r t => releaseIfHeld_sdreq r t) _).trans
    (forRoles_same (·.sdreq) (fun r t => driveLowIfHeld_sdreq r t) s)

@[simp] theorem powerDownCommand_sr (s : State) : (powerDownCommand s).sr = s.sr :=
  (forRoles_same (·.sr) (fun r t => releaseIfHeld_sr r t) _).trans
    (forRoles_same (·.sr) (fun r t => driveLowIfHeld_sr r t) s)

@[simp] theorem powerDownCommand_clkv (s : State) : (powerDownCommand s).clkv = s.clkv :=
  (forRoles_same (·.clkv) (fun r t => releaseIfHeld_clkv r t) _).trans
    (forRoles_same (·.clkv) (fun r t => driveLowIfHeld_clkv r t) s)

@[simp] theorem powerDownCommand_bitn (s : State) : (powerDownCommand s).bitn = s.bitn :=
  (forRoles_same (·.bitn) (fun r t => releaseIfHeld_bitn r t) _).trans
    (forRoles_same (·.bitn) (fun r t => driveLowIfHeld_bitn r t) s)

@[simp] theorem powerDownCommand_page (s : State) : (powerDownCommand s).page = s.page :=
  (forRoles_same (·.page) (fun r t => releaseIfHeld_page r t) _).trans
    (forRoles_same (·.page) (fun r t => driveLowIfHeld_page r t) s)

@[simp] theorem powerDownCommand_col (s : State) : (powerDownCommand s).col = s.col :=
  (forRoles_same (·.col) (fun r t => releaseIfHeld_col r t) _).trans
    (forRoles_same (·.col) (fun r t => driveLowIfHeld_col r t) s)

@[simp] theorem powerDownCommand_initi (s : State) : (powerDownCommand s).initi = s.initi :=
  (forRoles_same (·.initi) (fun r t => releaseIfHeld_initi r t) _).trans
    (forRoles_same (·.initi) (fun r t => driveLowIfHeld_initi r t) s)

@[simp] theorem powerDownCommand_chi (s : State) : (powerDownCommand s).chi = s.chi :=
  (forRoles_same (·.chi) (fun r t => releaseIfHeld_chi r t) _).trans
    (forRoles_same (·.chi) (fun r t => driveLowIfHeld_chi r t) s)

@[simp] theorem powerDownCommand_gcol (s : State) : (powerDownCommand s).gcol = s.gcol :=
  (forRoles_same (·.gcol) (fun r t => releaseIfHeld_gcol r t) _).trans
    (forRoles_same (·.gcol) (fun r t => driveLowIfHeld_gcol r t) s)

@[simp] theorem powerDownCommand_pb (s : State) : (powerDownCommand s).pb = s.pb :=
  (forRoles_same (·.pb) (fun r t => releaseIfHeld_pb r t) _).trans
    (forRoles_same (·.pb) (fun r t => driveLowIfHeld_pb r t) s)

@[simp] theorem powerDownCommand_fb (s : State) : (powerDownCommand s).fb = s.fb :=
  (forRoles_same (·.fb) (fun r t => releaseIfHeld_fb r t) _).trans
    (forRoles_same (·.fb) (fun r t => driveLowIfHeld_fb r t) s)

@[simp] theorem powerDownCommand_tx (s : State) : (powerDownCommand s).tx = s.tx :=
  (forRoles_same (·.tx) (fun r t => releaseIfHeld_tx r t) _).trans
    (forRoles_same (·.tx) (fun r t => driveLowIfHeld_tx r t) s)

@[simp] theorem powerDownCommand_wire (s : State) : (powerDownCommand s).wire = s.wire :=
  (forRoles_same (·.wire) (fun r t => releaseIfHeld_wire r t) _).trans
    (forRoles_same (·.wire) (fun r t => driveLowIfHeld_wire r t) s)

@[simp] theorem powerDownCommand_params (s : State) : (powerDownCommand s).params = s.params :=
  (forRoles_same (·.params) (fun r t => releaseIfHeld_params r t) _).trans
    (forRoles_same (·.params) (fun r t => driveLowIfHeld_params r t) s)

@[simp] theorem powerDownCommand_inbox (s : State) : (powerDownCommand s).inbox = s.inbox :=
  (forRoles_same (·.inbox) (fun r t => releaseIfHeld_inbox r t) _).trans
    (forRoles_same (·.inbox) (fun r t => driveLowIfHeld_inbox r t) s)

end Machine

end Sys2Proof
end

