-- ==== Sys2Proof/Laws/PowerUp.lean ====
section
/-! SUPPORT. POWERUP: what each batch does to ACQ and DIR, and where the chain stops. -/

namespace Sys2Proof

open Sys2Proof.Machine

theorem idxOf_roleOrder (r : Role) : roleOrder.idxOf r = r.index := by cases r <;> decide

@[simp] theorem acquirePin_answerAt (r : Role) (s : State) (k : Nat) :
    (acquirePin r s).answerAt k = s.answerAt (k + 1) := by
  rw [(issued_acquirePin r s).answerAt, calls_cons_call rfl, calls_nil, Nat.zero_add, Nat.add_comm]

@[simp] theorem directPin_answerAt (d : PinDir) (r : Role) (s : State) (k : Nat) :
    (directPin d r s).answerAt k = s.answerAt (k + 1) := by
  rw [(issued_directPin d r s).answerAt, calls_cons_call rfl, calls_nil, Nat.zero_add, Nat.add_comm]

theorem acquirePin_acq (r q : Role) (s : State) :
    roleBit (acquirePin r s).acq q = (roleBit s.acq q || decide (q = r ∧ s.answerAt 0 = .ok)) := by
  unfold acquirePin
  cases h : s.answerAt 0 with
  | ok => simp [roleBit_setRoleBit, Bool.or_comm]
  | fail => simp

theorem directPin_dir (d : PinDir) (r q : Role) (s : State) :
    (directPin d r s).dir.get q =
      if q = r then (if s.answerAt 0 = .ok then some d else none) else s.dir.get q := by
  unfold directPin
  cases h : s.answerAt 0 with
  | ok => simp [Pins.get_set]
  | fail => simp [Pins.get_set]

/-- The acquisition batch: a role is held afterwards if it was before or its call answered ok. -/
theorem acquire_batch {rs : List Role} (hn : rs.Nodup) (s : State) (q : Role) :
    roleBit (forRoles rs acquirePin s).acq q =
      (roleBit s.acq q || decide (q ∈ rs ∧ s.answerAt (rs.idxOf q) = .ok)) := by
  unfold forRoles
  induction rs generalizing s with
  | nil => simp
  | cons r rs ih =>
    obtain ⟨hr, hrs⟩ := List.nodup_cons.mp hn
    rw [List.foldl_cons, ih hrs, acquirePin_acq]
    by_cases hq : q = r
    · subst hq
      simp [hr]
    · have : r ≠ q := fun h => hq h.symm
      simp [hq, List.idxOf_cons_ne rs this]

/-- The direction batch: a role of it has the asked direction if its call answered ok, else `none`. -/
theorem direct_batch {rs : List Role} (hn : rs.Nodup) (d : Role → PinDir) (s : State) (q : Role) :
    (forRoles rs (fun r => directPin (d r) r) s).dir.get q =
      if q ∈ rs then (if s.answerAt (rs.idxOf q) = .ok then some (d q) else none) else s.dir.get q := by
  unfold forRoles
  induction rs generalizing s with
  | nil => simp
  | cons r rs ih =>
    obtain ⟨hr, hrs⟩ := List.nodup_cons.mp hn
    rw [List.foldl_cons, ih hrs, directPin_dir]
    by_cases hq : q = r
    · subst hq
      simp [hr]
    · have : r ≠ q := fun h => hq h.symm
      simp [hq, List.idxOf_cons_ne rs this]

/-- ACQ after `acquireAll()` (`41_sh1106_controller.md` R92). -/
theorem acquireAll_acq (s : State) (r : Role) :
    roleBit (acquireAll s).acq r = (roleBit s.acq r || decide (s.answerAt r.index = .ok)) := by
  rw [acquireAll, acquire_batch nodup_roleOrder, idxOf_roleOrder]
  simp [mem_roleOrder]

/-- The direction a role has in a session (`10_state.md` R11). -/
theorem sessionDir_get (r : Role) : sessionDir.get r = some (powerUpDir r) := by cases r <;> rfl

/-- DIR after `directAll()` (`41_sh1106_controller.md` R93). -/
theorem directAll_dir (s : State) (r : Role) :
    (directAll s).dir.get r = if s.answerAt r.index = .ok then sessionDir.get r else none := by
  rw [directAll, direct_batch nodup_roleOrder, idxOf_roleOrder, sessionDir_get]
  simp [mem_roleOrder]

/-- The roles the acquisitions failed on. -/
theorem failedOn_acquire (s : State) (k : Nat) (r : Role) :
    failedOn r (answered s k acquireEvents) = decide (s.answerAt (k + r.index) = .fail) := by
  cases r <;> simp [failedOn, acquireEvents, answered, PortEvent.role?, Role.index] <;> rfl

/-- The roles the direction calls failed on. -/
theorem failedOn_direct (s : State) (k : Nat) (r : Role) :
    failedOn r (answered s k directEvents) = decide (s.answerAt (k + r.index) = .fail) := by
  cases r <;> simp [failedOn, directEvents, answered, PortEvent.role?, Role.index] <;> rfl

theorem answer_ne_fail {a : Answer} : ¬a = .fail ↔ a = .ok := by cases a <;> simp

/-- With no failed acquisition every pin is held. -/
theorem acquireAll_acq_of_pfail {s : State} (hs : s.pfail = 0#7) (h : (acquireAll s).pfail = 0#7) :
    (acquireAll s).acq = 0x7F#7 := by
  apply roleBit_ext
  intro r
  have := ((issued_acquireAll s).pfail_eq_zero_iff hs).mp h r
  rw [failedOn_acquire, decide_eq_false_iff_not, Nat.zero_add, answer_ne_fail] at this
  simp [acquireAll_acq, this]

/-- With no failed direction call every pin has its direction. -/
theorem directAll_dir_of_pfail {s : State} (hs : s.pfail = 0#7) (h : (directAll s).pfail = 0#7) :
    (directAll s).dir = sessionDir := by
  apply Pins.ext_get
  intro r
  have := ((issued_directAll s).pfail_eq_zero_iff hs).mp h r
  rw [failedOn_direct, decide_eq_false_iff_not, Nat.zero_add, answer_ne_fail] at this
  simp [directAll_dir, this]

/-! ## The stages of a POWERUP

The states at its step boundaries, every step before it run whole. -/

/-- After `acquireAll()`. -/
@[irreducible] def stageAcquire (s : State) : State := acquireAll (beginCommand s)

/-- After `directAll()`. -/
@[irreducible] def stageDirect (s : State) : State := directAll { stageAcquire s with life := .pinsAcquired }

/-- After `assertLines()`. -/
@[irreducible] def stageAssert (s : State) : State := assertLines (stageDirect s)

/-- After `reset()`. -/
@[irreducible] def stageReset (s : State) : State := displayReset (stageAssert s)

/-- After `initialize()`. -/
@[irreducible] def stageInit (s : State) : State := initializeDisplay { stageReset s with life := .reset }

/-- The chain ends at the first stage at which PFAIL is not 0, or in Ready. -/
theorem exec_powerup_cases {s : State} (hl : s.life = .uninitialized) :
    ((stageAcquire s).pfail ≠ 0#7 ∧
      exec .powerup s = .next (raise .pinUnavailable (stageAcquire s).pfail (stageAcquire s))) ∨
    ((stageAcquire s).pfail = 0#7 ∧ (stageDirect s).pfail ≠ 0#7 ∧
      exec .powerup s = .next (raise .pinAccessError (stageDirect s).pfail (stageDirect s))) ∨
    ((stageAcquire s).pfail = 0#7 ∧ (stageDirect s).pfail = 0#7 ∧ (stageAssert s).pfail ≠ 0#7 ∧
      exec .powerup s = .next (raise .pinAccessError (stageAssert s).pfail (stageAssert s))) ∨
    ((stageAcquire s).pfail = 0#7 ∧ (stageDirect s).pfail = 0#7 ∧ (stageAssert s).pfail = 0#7 ∧
      (stageReset s).pfail ≠ 0#7 ∧
      exec .powerup s = .next (raise .pinAccessError (stageReset s).pfail (stageReset s))) ∨
    ((stageAcquire s).pfail = 0#7 ∧ (stageDirect s).pfail = 0#7 ∧ (stageAssert s).pfail = 0#7 ∧
      (stageReset s).pfail = 0#7 ∧ (stageInit s).pfail ≠ 0#7 ∧
      exec .powerup s = .next (raise .pinAccessError (stageInit s).pfail (stageInit s))) ∨
    ((stageAcquire s).pfail = 0#7 ∧ (stageDirect s).pfail = 0#7 ∧ (stageAssert s).pfail = 0#7 ∧
      (stageReset s).pfail = 0#7 ∧ (stageInit s).pfail = 0#7 ∧
      exec .powerup s = .next (finish none 0#7 { stageInit s with life := .ready, inited := true })) := by
  have e : exec .powerup s = .next (
      if (stageAcquire s).pfail ≠ 0#7 then raise .pinUnavailable (stageAcquire s).pfail (stageAcquire s)
      else if (stageDirect s).pfail ≠ 0#7 then raise .pinAccessError (stageDirect s).pfail (stageDirect s)
      else if (stageAssert s).pfail ≠ 0#7 then raise .pinAccessError (stageAssert s).pfail (stageAssert s)
      else if (stageReset s).pfail ≠ 0#7 then raise .pinAccessError (stageReset s).pfail (stageReset s)
      else if (stageInit s).pfail ≠ 0#7 then raise .pinAccessError (stageInit s).pfail (stageInit s)
      else finish none 0#7 { stageInit s with life := .ready, inited := true }) := by
    unfold stageInit stageReset stageAssert stageDirect stageAcquire
    rw [show exec .powerup s = .next (powerUpCommand (beginCommand s)) from rfl, powerUpCommand,
      if_pos (show (beginCommand s).life = .uninitialized from hl)]
    simp only [powerUpDirect, powerUpAssert, powerUpReset, powerUpInitialize]
  rw [e]
  by_cases h0 : (stageAcquire s).pfail = 0#7
  · by_cases h1 : (stageDirect s).pfail = 0#7
    · by_cases h2 : (stageAssert s).pfail = 0#7
      · by_cases h3 : (stageReset s).pfail = 0#7
        · by_cases h4 : (stageInit s).pfail = 0#7
          · simp [h0, h1, h2, h3, h4]
          · simp [h0, h1, h2, h3, h4]
        · simp [h0, h1, h2, h3]
      · simp [h0, h1, h2]
    · simp [h0, h1]
  · simp [h0]

theorem Issued.of_life {es : List PortEvent} {s t : State} {l : Life} (h : Issued es { s with life := l } t) :
    Issued es s t := h.congr_left ⟨rfl, rfl, rfl, rfl, rfl⟩

@[simp] theorem stageAcquire_inited (s : State) : (stageAcquire s).inited = s.inited := by
  unfold stageAcquire; simp

@[simp] theorem stageAcquire_sdreq (s : State) : (stageAcquire s).sdreq = s.sdreq := by
  unfold stageAcquire; simp

@[simp] theorem stageAcquire_page (s : State) : (stageAcquire s).page = s.page := by
  unfold stageAcquire; simp

@[simp] theorem stageAcquire_col (s : State) : (stageAcquire s).col = s.col := by
  unfold stageAcquire; simp

@[simp] theorem stageAcquire_chi (s : State) : (stageAcquire s).chi = s.chi := by
  unfold stageAcquire; simp

@[simp] theorem stageAcquire_gcol (s : State) : (stageAcquire s).gcol = s.gcol := by
  unfold stageAcquire; simp

@[simp] theorem stageAcquire_pb (s : State) : (stageAcquire s).pb = s.pb := by
  unfold stageAcquire; simp

@[simp] theorem stageAcquire_fb (s : State) : (stageAcquire s).fb = s.fb := by
  unfold stageAcquire; simp

@[simp] theorem stageAcquire_tx (s : State) : (stageAcquire s).tx = s.tx := by
  unfold stageAcquire; simp

@[simp] theorem stageAcquire_params (s : State) : (stageAcquire s).params = s.params := by
  unfold stageAcquire; simp

@[simp] theorem stageAcquire_inbox (s : State) : (stageAcquire s).inbox = s.inbox := by
  unfold stageAcquire; simp

@[simp] theorem stageAcquire_life (s : State) : (stageAcquire s).life = s.life := by
  unfold stageAcquire; simp

@[simp] theorem stageAcquire_dir (s : State) : (stageAcquire s).dir = s.dir := by
  unfold stageAcquire; simp

@[simp] theorem stageAcquire_wire (s : State) : (stageAcquire s).wire = s.wire := by
  unfold stageAcquire; simp

@[simp] theorem stageDirect_inited (s : State) : (stageDirect s).inited = s.inited := by
  unfold stageDirect; simp

@[simp] theorem stageDirect_sdreq (s : State) : (stageDirect s).sdreq = s.sdreq := by
  unfold stageDirect; simp

@[simp] theorem stageDirect_page (s : State) : (stageDirect s).page = s.page := by
  unfold stageDirect; simp

@[simp] theorem stageDirect_col (s : State) : (stageDirect s).col = s.col := by
  unfold stageDirect; simp

@[simp] theorem stageDirect_chi (s : State) : (stageDirect s).chi = s.chi := by
  unfold stageDirect; simp

@[simp] theorem stageDirect_gcol (s : State) : (stageDirect s).gcol = s.gcol := by
  unfold stageDirect; simp

@[simp] theorem stageDirect_pb (s : State) : (stageDirect s).pb = s.pb := by
  unfold stageDirect; simp

@[simp] theorem stageDirect_fb (s : State) : (stageDirect s).fb = s.fb := by
  unfold stageDirect; simp

@[simp] theorem stageDirect_tx (s : State) : (stageDirect s).tx = s.tx := by
  unfold stageDirect; simp

@[simp] theorem stageDirect_params (s : State) : (stageDirect s).params = s.params := by
  unfold stageDirect; simp

@[simp] theorem stageDirect_inbox (s : State) : (stageDirect s).inbox = s.inbox := by
  unfold stageDirect; simp

@[simp] theorem stageDirect_wire (s : State) : (stageDirect s).wire = s.wire := by
  unfold stageDirect; simp

@[simp] theorem stageDirect_life (s : State) : (stageDirect s).life = .pinsAcquired := by
  unfold stageDirect; simp

@[simp] theorem stageDirect_acq (s : State) : (stageDirect s).acq = (stageAcquire s).acq := by
  unfold stageDirect; simp

@[simp] theorem stageAssert_inited (s : State) : (stageAssert s).inited = s.inited := by
  unfold stageAssert; simp [assertLines]

@[simp] theorem stageAssert_sdreq (s : State) : (stageAssert s).sdreq = s.sdreq := by
  unfold stageAssert; simp [assertLines]

@[simp] theorem stageAssert_page (s : State) : (stageAssert s).page = s.page := by
  unfold stageAssert; simp [assertLines]

@[simp] theorem stageAssert_col (s : State) : (stageAssert s).col = s.col := by
  unfold stageAssert; simp [assertLines]

@[simp] theorem stageAssert_chi (s : State) : (stageAssert s).chi = s.chi := by
  unfold stageAssert; simp [assertLines]

@[simp] theorem stageAssert_gcol (s : State) : (stageAssert s).gcol = s.gcol := by
  unfold stageAssert; simp [assertLines]

@[simp] theorem stageAssert_pb (s : State) : (stageAssert s).pb = s.pb := by
  unfold stageAssert; simp [assertLines]

@[simp] theorem stageAssert_fb (s : State) : (stageAssert s).fb = s.fb := by
  unfold stageAssert; simp [assertLines]

@[simp] theorem stageAssert_tx (s : State) : (stageAssert s).tx = s.tx := by
  unfold stageAssert; simp [assertLines]

@[simp] theorem stageAssert_params (s : State) : (stageAssert s).params = s.params := by
  unfold stageAssert; simp [assertLines]

@[simp] theorem stageAssert_inbox (s : State) : (stageAssert s).inbox = s.inbox := by
  unfold stageAssert; simp [assertLines]

@[simp] theorem stageAssert_wire (s : State) : (stageAssert s).wire = s.wire := by
  unfold stageAssert; simp [assertLines]

@[simp] theorem stageAssert_life (s : State) : (stageAssert s).life = .pinsAcquired := by
  unfold stageAssert; simp [assertLines]

@[simp] theorem stageAssert_acq (s : State) : (stageAssert s).acq = (stageAcquire s).acq := by
  unfold stageAssert; simp [assertLines]

@[simp] theorem stageAssert_dir (s : State) : (stageAssert s).dir = (stageDirect s).dir := by
  unfold stageAssert; simp [assertLines]

@[simp] theorem stageReset_inited (s : State) : (stageReset s).inited = s.inited := by
  unfold stageReset; simp

@[simp] theorem stageReset_sdreq (s : State) : (stageReset s).sdreq = s.sdreq := by
  unfold stageReset; simp

@[simp] theorem stageReset_page (s : State) : (stageReset s).page = s.page := by
  unfold stageReset; simp

@[simp] theorem stageReset_col (s : State) : (stageReset s).col = s.col := by
  unfold stageReset; simp

@[simp] theorem stageReset_chi (s : State) : (stageReset s).chi = s.chi := by
  unfold stageReset; simp

@[simp] theorem stageReset_gcol (s : State) : (stageReset s).gcol = s.gcol := by
  unfold stageReset; simp

@[simp] theorem stageReset_pb (s : State) : (stageReset s).pb = s.pb := by
  unfold stageReset; simp

@[simp] theorem stageReset_fb (s : State) : (stageReset s).fb = s.fb := by
  unfold stageReset; simp

@[simp] theorem stageReset_tx (s : State) : (stageReset s).tx = s.tx := by
  unfold stageReset; simp

@[simp] theorem stageReset_params (s : State) : (stageReset s).params = s.params := by
  unfold stageReset; simp

@[simp] theorem stageReset_inbox (s : State) : (stageReset s).inbox = s.inbox := by
  unfold stageReset; simp

@[simp] theorem stageReset_wire (s : State) : (stageReset s).wire = s.wire := by
  unfold stageReset; simp

@[simp] theorem stageReset_life (s : State) : (stageReset s).life = .pinsAcquired := by
  unfold stageReset; simp

@[simp] theorem stageReset_acq (s : State) : (stageReset s).acq = (stageAcquire s).acq := by
  unfold stageReset; simp

@[simp] theorem stageReset_dir (s : State) : (stageReset s).dir = (stageDirect s).dir := by
  unfold stageReset; simp

@[simp] theorem stageInit_inited (s : State) : (stageInit s).inited = s.inited := by
  unfold stageInit; simp

@[simp] theorem stageInit_sdreq (s : State) : (stageInit s).sdreq = s.sdreq := by
  unfold stageInit; simp

@[simp] theorem stageInit_page (s : State) : (stageInit s).page = s.page := by
  unfold stageInit; simp

@[simp] theorem stageInit_col (s : State) : (stageInit s).col = s.col := by
  unfold stageInit; simp

@[simp] theorem stageInit_chi (s : State) : (stageInit s).chi = s.chi := by
  unfold stageInit; simp

@[simp] theorem stageInit_gcol (s : State) : (stageInit s).gcol = s.gcol := by
  unfold stageInit; simp

@[simp] theorem stageInit_pb (s : State) : (stageInit s).pb = s.pb := by
  unfold stageInit; simp

@[simp] theorem stageInit_fb (s : State) : (stageInit s).fb = s.fb := by
  unfold stageInit; simp

@[simp] theorem stageInit_tx (s : State) : (stageInit s).tx = s.tx := by
  unfold stageInit; simp

@[simp] theorem stageInit_params (s : State) : (stageInit s).params = s.params := by
  unfold stageInit; simp

@[simp] theorem stageInit_inbox (s : State) : (stageInit s).inbox = s.inbox := by
  unfold stageInit; simp

@[simp] theorem stageInit_life (s : State) : (stageInit s).life = .reset := by
  unfold stageInit; simp

@[simp] theorem stageInit_acq (s : State) : (stageInit s).acq = (stageAcquire s).acq := by
  unfold stageInit; simp

@[simp] theorem stageInit_dir (s : State) : (stageInit s).dir = (stageDirect s).dir := by
  unfold stageInit; simp

/-! ## The events up to each stage -/

theorem issued_stageAcquire (s : State) : Issued acquireEvents (beginCommand s) (stageAcquire s) := by
  unfold stageAcquire
  exact issued_acquireAll _

theorem issued_stageDirect (s : State) :
    Issued (acquireEvents ++ directEvents) (beginCommand s) (stageDirect s) := by
  have h : Issued directEvents (stageAcquire s) (stageDirect s) := by
    unfold stageDirect
    exact (issued_directAll _).of_life
  exact (issued_stageAcquire s).trans h

theorem issued_stageAssert (s : State) :
    Issued (acquireEvents ++ directEvents ++ assertEvents s.params) (beginCommand s) (stageAssert s) := by
  have h : Issued (assertEvents s.params) (stageDirect s) (stageAssert s) := by
    unfold stageAssert
    rw [← stageDirect_params]
    exact issued_assertLines _
  exact (issued_stageDirect s).trans h

theorem issued_stageReset (s : State) :
    Issued (acquireEvents ++ directEvents ++ assertEvents s.params ++ resetEvents) (beginCommand s)
      (stageReset s) := by
  have h : Issued resetEvents (stageAssert s) (stageReset s) := by
    unfold stageReset
    exact issued_displayReset _
  exact (issued_stageAssert s).trans h

theorem issued_stageInit (s : State) : Issued (powerUpEvents s.params) (beginCommand s) (stageInit s) := by
  have h : Issued (initEvents s.params) (stageReset s) (stageInit s) := by
    have h0 : Issued (initEvents (stageReset s).params) (stageReset s) (stageInit s) := by
      unfold stageInit
      exact Issued.of_life (l := .reset) (issued_initializeDisplay { stageReset s with life := .reset })
    rwa [stageReset_params] at h0
  exact (issued_stageReset s).trans h

theorem calls_resetEvents (p : Params) :
    calls (acquireEvents ++ directEvents ++ assertEvents p ++ resetEvents) = 20 := rfl

/-- A POWERUP makes 20 + 25 B port calls and 23 + 25 B events (`70_reset_and_hazards.md` R141). -/
theorem calls_powerUpEvents (p : Params) : calls (powerUpEvents p) = 20 + 25 * eventsPerByte p.cfgMode := by
  rw [powerUpEvents, calls_append, calls_resetEvents, initEvents, calls_sessionBytes, Vector.length_toList]

theorem length_powerUpEvents (p : Params) :
    (powerUpEvents p).length = 23 + 25 * eventsPerByte p.cfgMode := by
  rw [powerUpEvents, List.length_append, initEvents, length_sessionBytes, Vector.length_toList]
  rfl

end Sys2Proof
end

