-- ==== Sys2Proof/Laws/Invariants.lean ====
section
/-! SUPPORT. One induction for every claim about what any step does: a property that each port primitive keeps,
and that does not look at the other fields, is kept by every operation, every command and every step. -/

namespace Sys2Proof

open Sys2Proof.Machine

/-- The fields the port primitives write are equal. -/
def SamePort (s t : State) : Prop :=
  t.trace = s.trace ∧ t.lvl = s.lvl ∧ t.acq = s.acq ∧ t.dir = s.dir

/-- P is kept by each port primitive the block uses and looks at TRACE, LVL, ACQ and DIR only. -/
structure PortClosed (P : State → Prop) : Prop where
  pwrite : ∀ r v s, P s → P (pwrite r v s)
  delay : ∀ ms s, P s → P (delay ms s)
  acquire : ∀ r s, P s → P (acquirePin r s)
  direct : ∀ d r s, P s → P (directPin d r s)
  release : ∀ r s, P s → P (releasePin r s)
  other : ∀ s t, SamePort s t → P s → P t

theorem samePort_rfl {s t : State} (h1 : t.trace = s.trace := by rfl) (h2 : t.lvl = s.lvl := by rfl)
    (h3 : t.acq = s.acq := by rfl) (h4 : t.dir = s.dir := by rfl) : SamePort s t := ⟨h1, h2, h3, h4⟩

namespace PortClosed

variable {P : State → Prop}

theorem finish (h : PortClosed P) (k : Option ErrorKind) (mask : BitVec 7) {s : State} (hs : P s) :
    P (Machine.finish k mask s) := h.other s _ samePort_rfl hs

theorem raise (h : PortClosed P) (k : ErrorKind) (mask : BitVec 7) {s : State} (hs : P s) :
    P (Machine.raise k mask s) := h.other s _ samePort_rfl hs

theorem endWithPortCheck (h : PortClosed P) {s : State} (hs : P s) : P (Machine.endWithPortCheck s) :=
  h.other s _ ⟨by simp, by simp, by simp, by simp⟩ hs

theorem driveClock (h : PortClosed P) (v : Bool) {s : State} (hs : P s) : P (Machine.driveClock v s) :=
  h.pwrite _ _ _ (h.other s _ samePort_rfl hs)

theorem toggleClock (h : PortClosed P) {s : State} (hs : P s) : P (Machine.toggleClock s) := h.driveClock _ hs

theorem bitSlot (h : PortClosed P) (o : BitOrder) (i : Fin 8) {s : State} (hs : P s) :
    P (Machine.bitSlot o i s) :=
  h.other _ _ samePort_rfl (h.toggleClock (h.toggleClock (h.pwrite _ _ _ (h.other s _ samePort_rfl hs))))

theorem writeByte (h : PortClosed P) (v : Byte) (m : SpiMode) (o : BitOrder) {s : State} (hs : P s) :
    P (Machine.writeByte v m o s) := by
  have h0 := h.driveClock (modePol m)
    (h.other s { s with wire := ⟨s.lvl.dc, v, m, o⟩ :: s.wire, sr := v } samePort_rfl hs)
  refine h.driveClock _ (forEach_keeps (P := P) (fun i t => h.bitSlot o i) ?_)
  split
  · exact h.toggleClock h0
  · exact h0

theorem sendByte (h : PortClosed P) (v : Byte) {s : State} (hs : P s) : P (Machine.sendByte v s) :=
  h.writeByte v _ _ hs

theorem preamble (h : PortClosed P) (p : BitVec 3) {s : State} (hs : P s) : P (Machine.preamble p s) :=
  h.pwrite _ _ _ (h.sendByte _ (h.sendByte _ (h.sendByte _ (h.pwrite _ _ _ hs))))

theorem sendPage (h : PortClosed P) (p : Fin 8) {s : State} (hs : P s) : P (Machine.sendPage p s) :=
  forEach_keeps (P := P) (fun _ t ht => h.sendByte _ (h.other t _ samePort_rfl ht))
    (h.preamble _ (h.other s _ samePort_rfl hs))

theorem sendChar (h : PortClosed P) (inv : Bool) (i : Fin 16) {s : State} (hs : P s) :
    P (Machine.sendChar inv i s) := by
  refine forEach_keeps (P := P) (fun j t ht => ?_) (h.other s _ samePort_rfl hs)
  unfold sendGlyphColumn
  split
  · exact h.sendByte _ (h.other t _ samePort_rfl ht)
  · exact ht

theorem acquireAll (h : PortClosed P) {s : State} (hs : P s) : P (Machine.acquireAll s) :=
  forRoles_keeps (P := P) (fun r t => h.acquire r t) hs

theorem directAll (h : PortClosed P) {s : State} (hs : P s) : P (Machine.directAll s) :=
  forRoles_keeps (P := P) (fun r t => h.direct _ r t) hs

theorem assertLines (h : PortClosed P) {s : State} (hs : P s) : P (Machine.assertLines s) :=
  h.pwrite _ _ _ (h.pwrite _ _ _ hs)

theorem resetPhase (h : PortClosed P) (v : Bool) {s : State} (hs : P s) : P (Machine.resetPhase s v) :=
  h.delay _ _ (h.pwrite _ _ _ hs)

theorem displayReset (h : PortClosed P) {s : State} (hs : P s) : P (Machine.displayReset s) :=
  h.resetPhase _ (h.resetPhase _ (h.resetPhase _ (h.pwrite _ _ _ hs)))

theorem initializeDisplay (h : PortClosed P) {s : State} (hs : P s) : P (Machine.initializeDisplay s) :=
  forEach_keeps (P := P) (fun _ t ht => h.sendByte _ (h.other t _ samePort_rfl ht)) hs

theorem beginCommand (h : PortClosed P) {s : State} (hs : P s) : P (Machine.beginCommand s) :=
  h.other s _ samePort_rfl hs

/-- P after each stage of a POWERUP. -/
theorem stages (h : PortClosed P) {s : State} (hs : P s) :
    P (stageAcquire s) ∧ P (stageDirect s) ∧ P (stageAssert s) ∧ P (stageReset s) ∧ P (stageInit s) := by
  have hlife : ∀ (l : Life) (u : State), P u → P { u with life := l } :=
    fun l u hu => h.other u _ samePort_rfl hu
  have h0 : P (stageAcquire s) := by unfold stageAcquire; exact h.acquireAll (h.beginCommand hs)
  have h1 : P (stageDirect s) := by unfold stageDirect; exact h.directAll (hlife .pinsAcquired _ h0)
  have h2 : P (stageAssert s) := by unfold stageAssert; exact h.assertLines h1
  have h3 : P (stageReset s) := by unfold stageReset; exact h.displayReset h2
  have h4 : P (stageInit s) := by unfold stageInit; exact h.initializeDisplay (hlife .reset _ h3)
  exact ⟨h0, h1, h2, h3, h4⟩

theorem powerup (h : PortClosed P) {s t : State} (he : Machine.exec .powerup s = .next t) (hs : P s) : P t := by
  by_cases hl : s.life = .uninitialized
  · obtain ⟨h0, h1, h2, h3, h4⟩ := h.stages hs
    rcases exec_powerup_cases hl with ⟨-, e⟩ | ⟨-, -, e⟩ | ⟨-, -, -, e⟩ | ⟨-, -, -, -, e⟩ | ⟨-, -, -, -, -, e⟩ |
      ⟨-, -, -, -, -, e⟩ <;> rw [e] at he <;> cases he
    · exact h.raise _ _ h0
    · exact h.raise _ _ h1
    · exact h.raise _ _ h2
    · exact h.raise _ _ h3
    · exact h.raise _ _ h4
    · exact h.finish _ _ (h.other _ _ samePort_rfl h4)
  · rw [exec_powerup_refused hl] at he
    cases he
    exact h.raise _ _ (h.beginCommand hs)

theorem powerDownCommand (h : PortClosed P) {s : State} (hs : P s) : P (Machine.powerDownCommand s) := by
  refine h.other _ _ samePort_rfl (forRoles_keeps (P := P) (fun r t ht => ?_) (forRoles_keeps (P := P) (fun r t ht => ?_) hs))
  · unfold releaseIfHeld
    split
    · exact h.release _ _ ht
    · exact ht
  · unfold driveLowIfHeld
    split
    · exact h.pwrite _ _ _ ht
    · exact ht

theorem writeByteCommand (h : PortClosed P) (data mode order : Byte) {s : State} (hs : P s) :
    P (Machine.writeByteCommand data mode order s) := by
  unfold Machine.writeByteCommand
  split
  · split
    · exact h.endWithPortCheck (h.writeByte _ _ _ hs)
    · exact h.raise _ _ hs
    · exact h.raise _ _ hs
  · exact h.raise _ _ hs

theorem drawFrameCommand (h : PortClosed P) (w k : Byte) (payload : List Byte) {s : State} (hs : P s) :
    P (Machine.drawFrameCommand w k payload s) := by
  unfold Machine.drawFrameCommand
  split
  · split
    · have h0 : P (loadFrame payload s) := h.other s _ samePort_rfl hs
      have h1 : P (convertFrame (loadFrame payload s)) := h.other (loadFrame payload s) _ samePort_rfl h0
      have h2 := forEach_keeps (P := P) (f := Machine.sendPage) (fun p t => h.sendPage p) h1
      exact h.endWithPortCheck h2
    · exact h.raise _ _ hs
  · exact h.raise _ _ hs

theorem drawTextCommand (h : PortClosed P) (inv : Bool) (rsv : BitVec 3) (row : BitVec 4) (line : List Byte)
    {s : State} (hs : P s) : P (Machine.drawTextCommand inv rsv row line s) := by
  unfold Machine.drawTextCommand
  split
  · exact h.raise _ _ hs
  split
  · split
    · have h0 : P (loadText line s) := h.other s _ samePort_rfl hs
      have h1 := h.preamble (row.setWidth 3) h0
      have h2 := forEach_keeps (P := P) (f := Machine.sendChar inv) (fun i t => h.sendChar inv i) h1
      exact h.endWithPortCheck h2
    · exact h.raise _ _ hs
  · exact h.raise _ _ hs

/-- Every instruction keeps P. -/
theorem exec (h : PortClosed P) {i : Instr} {s t : State} (he : Machine.exec i s = .next t) (hs : P s) : P t := by
  have hb := h.beginCommand hs
  cases i with
  | powerup => exact h.powerup he hs
  | powerdown => cases he; exact h.powerDownCommand hb
  | drawframe w k payload => cases he; exact h.drawFrameCommand w k payload hb
  | drawtext inv rsv row line => cases he; exact h.drawTextCommand inv rsv row line hb
  | writebyte data mode order => cases he; exact h.writeByteCommand data mode order hb
  | setpage p => cases he; exact h.sendByte _ hs
  | setcollo => cases he; exact h.sendByte _ hs
  | setcolhi => cases he; exact h.sendByte _ hs

/-- Every step keeps P, a hardware reset by P's own reason. -/
theorem step (h : PortClosed P) (hr : ∀ s, P s → P (hardwareReset s)) {s t : State}
    (he : Machine.step s = .next t) (hs : P s) : P t := by
  have hin : ∀ rest, P (withInbox rest s) := fun rest => h.other s _ samePort_rfl hs
  rcases step_cases he with ⟨rest, -, rfl⟩ | ⟨rest, -, rfl⟩ | ⟨-, rfl⟩ | ⟨_, rest, _, -, -, -, h1⟩ |
    ⟨_, rest, _, -, -, -, rfl⟩ | ⟨rest, rfl⟩
  · exact hr _ (hin rest)
  · exact h.other _ _ samePort_rfl (hin rest)
  · exact h.powerDownCommand (h.beginCommand (h.other s _ samePort_rfl hs))
  · exact h.exec h1 (hin rest)
  · exact h.raise _ _ (hin rest)
  · exact hin rest

end PortClosed

end Sys2Proof
end

