-- ==== Sys2Proof/Laws/PerInstr.lean ====
section
/-! SUPPORT. Statements made per instruction, about the instruction as syntax: family `Opcode`, what the bytes of
its encoding begin with and how many they are (`30_encoding.md` R61, R71). -/

namespace Sys2Proof.Laws

/-- A host packet begins with one of the opcodes 0x01 .. 0x05 and has, when the instruction is well-formed, a
length R61 allows for it; a wire command is one byte. -/
def Opcode.Statement (i : Instr) : Prop :=
  match i.space with
  | .host => ∃ op rest, encode i = op :: rest ∧ 1 ≤ op.toNat ∧ op.toNat ≤ 5 ∧
      (i.WellFormed → packetLength op ≤ (encode i).length)
  | .wire => (encode i).length = 1

theorem Opcode.powerup : Opcode.Statement .powerup :=
  ⟨0x01, [], rfl, by decide, by decide, fun _ => by decide⟩

theorem Opcode.powerdown : Opcode.Statement .powerdown :=
  ⟨0x02, [], rfl, by decide, by decide, fun _ => by decide⟩

theorem Opcode.drawframe (w h : Byte) (payload : List Byte) : Opcode.Statement (.drawframe w h payload) :=
  ⟨0x03, w :: h :: payload, rfl, by decide, by decide, fun _ => by simp [encode, packetLength]⟩

theorem Opcode.drawtext (inv : Bool) (rsv : BitVec 3) (row : BitVec 4) (line : List Byte) :
    Opcode.Statement (.drawtext inv rsv row line) :=
  ⟨0x04, textFlags inv rsv row :: line, rfl, by decide, by decide, fun hw => by
    have : line.length = 16 := by simpa [Instr.WellFormed, Instr.wellFormed] using hw
    simp [encode, packetLength, this]⟩

theorem Opcode.writebyte (data mode order : Byte) : Opcode.Statement (.writebyte data mode order) :=
  ⟨0x05, [data, mode, order], rfl, by decide, by decide, fun _ => by simp [encode, packetLength]⟩

theorem Opcode.setpage (p : BitVec 3) : Opcode.Statement (.setpage p) := rfl

theorem Opcode.setcollo : Opcode.Statement .setcollo := rfl

theorem Opcode.setcolhi : Opcode.Statement .setcolhi := rfl

end Sys2Proof.Laws
end

