-- ==== Sys2Proof/Tests/Slice0.lean ====
section
/-! SUPPORT. Tests: every expected value is the spec's (`95_test_vectors.md`, cited by vector), and for every
obligation with hypotheses a witness that meets them. -/

namespace Sys2Proof.Tests

open Sys2Proof Sys2Proof.Machine

/-! ## The test parameter set TP and small states (`95_test_vectors.md` section 0) -/

/-- GLYPH_T[i]: the bytes i, i+1, .., i+7, the first most significant. -/
def testGlyph (i : Nat) : GlyphWord :=
  BitVec.ofNat 8 i ++ BitVec.ofNat 8 (i + 1) ++ BitVec.ofNat 8 (i + 2) ++ BitVec.ofNat 8 (i + 3) ++
    BitVec.ofNat 8 (i + 4) ++ BitVec.ofNat 8 (i + 5) ++ BitVec.ofNat 8 (i + 6) ++ BitVec.ofNat 8 (i + 7)

/-- TP. -/
def testParams : Params where
  csActive := false
  cfgMode := 3
  cfgOrder := .msbFirst
  initSeq := Vector.ofFn fun i => BitVec.ofNat 8 (i.val + 1)
  glyphs := Vector.ofFn fun i => testGlyph (i.val + 1)

/-- The reset state under TP, the port's answers given. -/
def fresh (answers : List Answer) : State := { State.reset with params := testParams, answers := answers }

/-- READY but for its history: the registers as after a POWERUP under TP. -/
def ready (answers : List Answer) : State :=
  { fresh answers with
    life := .ready, inited := true, acq := 0x7F, dir := sessionDir, lastres := 0x003FE000
    lvl := ⟨.high, .high, .unknown, .low, .low, .low, .high⟩ }

/-- n answers ok. -/
def oks (n : Nat) : List Answer := List.replicate n .ok

/-- n answers ok, then a failure. -/
def failAt (n : Nat) : List Answer := oks n ++ [.fail]

/-- The next state, if there is one. -/
def next? (o : Host.Outcome State Fault Refusal) : Option State :=
  match o with
  | .next t => some t
  | .fault _ => none
  | .refused _ => none

/-- The state after one instruction. -/
def after (i : Instr) (s : State) : State := (next? (exec i s)).getD s

/-- A line of sixteen spaces. -/
def blank : List Byte := List.replicate 16 0x20

/-! ## WellFormed and Decode -/

/-- The only check of WellFormed: a text line that is not 16 characters (R65), one too few and one too many. -/
theorem test_wellFormed_refuses_text_length :
    (Instr.drawtext false 0 0 (List.replicate 15 0x20)).wellFormed = false ∧
      (Instr.drawtext false 0 0 (List.replicate 17 0x20)).wellFormed = false ∧
      (Instr.drawtext false 0 0 blank).wellFormed = true := by decide

theorem test_decode_powerup : decode [0b00000001] = .ok .powerup := rfl

theorem test_decode_powerdown : decode [0b00000010] = .ok .powerdown := rfl

theorem test_decode_drawframe : decode [0b00000011, 128, 64, 0xAA] = .ok (.drawframe 128 64 [0xAA]) := rfl

/-- `b[1]` = inv 1, zero 000, row 0010 (vector K5's packet); then row 1000 and reserved bits 101. -/
theorem test_decode_drawtext :
    decode (0b00000100 :: 0b10000010 :: blank) = .ok (.drawtext true 0b000 0b0010 blank) ∧
      decode (0b00000100 :: 0b01011000 :: blank) = .ok (.drawtext false 0b101 0b1000 blank) := ⟨rfl, rfl⟩

theorem test_decode_writebyte :
    decode [0b00000101, 0b10110011, 0b00000001, 0b00000000] = .ok (.writebyte 0xB3 1 0) := rfl

theorem test_decode_setpage : decodeWire [0b10110111] = some (.setpage 7) := rfl

theorem test_decode_setcollo : decodeWire [0b00000010] = some .setcollo := rfl

theorem test_decode_setcolhi : decodeWire [0b00010000] = some .setcolhi := rfl

/-- Vector K12, and the neighbours of the wire commands. -/
theorem test_decode_malformed :
    decode [] = .error .empty ∧ decode [0x00] = .error (.unknownOpcode 0x00) ∧
      decode [0x06] = .error (.unknownOpcode 0x06) ∧ decode [0x01, 0x00] = .error (.badLength 0x01 2) ∧
      decode [0x02, 0x00] = .error (.badLength 0x02 2) ∧ decodeWire [0xB8] = none ∧
      decodeWire [0xAF] = none ∧ decodeWire [0x11] = none := ⟨rfl, rfl, rfl, rfl, rfl, rfl, rfl, rfl⟩

/-- A table word of the shortest packet, bit 0 in the first byte. -/
theorem test_decodeTableWord :
    decodeTableWord 8 0x01 = some .powerup ∧ decodeTableWord 8 0x02 = some .powerdown ∧
      decodeTableWord 24 0x408003 = some (.drawframe 0x80 0x40 []) ∧
      decodeTableWord 32 0x0003B305 = some (.writebyte 0xB3 0x03 0x00) ∧
      decodeTableWord 8 0xB5 = some (.setpage 5) ∧ decodeTableWord 8 0x10 = some .setcolhi := by decide

/-! ## Instructions, one step each -/

/-- K9: the first 23 events, the count 673, the result word. -/
theorem test_powerup_K9 :
    (after .powerup (fresh (oks 673))).events.length = 673 ∧
      (after .powerup (fresh (oks 673))).lastres = 0x003FE000 ∧
      (after .powerup (fresh (oks 673))).events.take 23 = List.map okEntry
        [.acquire .clk, .acquire .mosi, .acquire .miso, .acquire .cs, .acquire .dc, .acquire .rst, .acquire .bl,
          .setDirection .clk .output, .setDirection .mosi .output, .setDirection .miso .input,
          .setDirection .cs .output, .setDirection .dc .output, .setDirection .rst .output,
          .setDirection .bl .output, .write .bl true, .write .cs false, .write .dc false, .write .rst false,
          .delay 200, .write .rst true, .delay 200, .write .rst false, .delay 200] := by decide +kernel

/-- F5: `W(RST,1)`, the 19th call, fails; `reset()` runs whole and the chain stops in PinsAcquired. -/
theorem test_powerup_F5 :
    (after .powerup (fresh (failAt 18 ++ oks 4))).lastres = 0x001FCA02 ∧
      (after .powerup (fresh (failAt 18 ++ oks 4))).trace.length = 23 ∧
      (after .powerup (fresh (failAt 18 ++ oks 4))).lvl =
        ⟨.unknown, .unknown, .unknown, .low, .low, .low, .high⟩ := by decide +kernel

/-- K11. -/
theorem test_powerdown_K11 :
    (after .powerdown (ready (oks 10))).events = List.map okEntry
        [.write .rst false, .write .dc false, .write .bl false, .release .clk, .release .mosi, .release .miso,
          .release .cs, .release .dc, .release .rst, .release .bl] ∧
      (after .powerdown (ready (oks 10))).lastres = 0x00002800 := by decide +kernel

/-- P4: the release of CS fails; it is dropped all the same, and the result is Ok with its bit in FAILMASK. -/
theorem test_powerdown_P4 :
    (after .powerdown (ready (failAt 6 ++ oks 3))).lastres = 0x00002880 ∧
      (after .powerdown (ready (failAt 6 ++ oks 3))).acq = 0 := by decide +kernel

/-- V4: 0xB3 least significant bit first in mode 1; the first `C0` comes from READY's clock. -/
theorem test_writebyte_V4 :
    writtenLevels .mosi (after (.writebyte 0xB3 1 1) (ready (oks 26))).events =
        [true, true, false, false, true, true, false, true] ∧
      (after (.writebyte 0xB3 1 1) (ready (oks 26))).lastres = 0x003FE000 ∧
      (after (.writebyte 0xB3 1 1) (ready (oks 26))).wireLog = [⟨.low, 0xB3, 1, .lsbFirst⟩] := by decide +kernel

/-- V21: the second and the last event fail. -/
theorem test_writebyte_V21 :
    (after (.writebyte 0xB3 3 0) (ready (failAt 1 ++ failAt 23))).lastres = 0x003FE032 ∧
      (after (.writebyte 0xB3 3 0) (ready (failAt 1 ++ failAt 23))).trace.length = 26 ∧
      (after (.writebyte 0xB3 3 0) (ready (failAt 1 ++ failAt 23))).lvl.clk = .unknown ∧
      (after (.writebyte 0xB3 3 0) (ready (failAt 1 ++ failAt 23))).lvl.mosi = .high := by decide +kernel

/-- T13: width and height transposed. -/
theorem test_drawframe_T13 :
    (after (.drawframe 0x40 0x80 (List.replicate 1024 0)) (ready [])).lastres = 0x003FE004 ∧
      (after (.drawframe 0x40 0x80 (List.replicate 1024 0)) (ready [])).trace = [] := by decide +kernel

/-- T1, E1: the page byte DRAWFRAME converts pixel (5, 0) to. -/
theorem test_drawframe_T1 : pageByte [(80, 0x01)] 0 0 = 0x20 ∧ pageByte [(80, 0x01)] 0 1 = 0x00 := by decide +kernel

/-- K5: the three addressing bytes as they are, then A, !, a space and ~ inverted. -/
theorem test_drawtext_K5 :
    ((after (.drawtext true 0 2 ([0x41, 0x21, 0x20, 0x7E] ++ List.replicate 12 0x20))
          (ready (oks 3408))).wireLog.map WireEntry.byte).take 35 =
      [0xB2, 0x02, 0x10, 0xDE, 0xDD, 0xDC, 0xDB, 0xDA, 0xD9, 0xD8, 0xD7, 0xFE, 0xFD, 0xFC, 0xFB, 0xFA, 0xF9, 0xF8,
        0xF7, 0xFF, 0xFF, 0xFF, 0xFF, 0xFF, 0xFF, 0xFF, 0xFF, 0xA1, 0xA0, 0x9F, 0x9E, 0x9D, 0x9C, 0x9B, 0x9A] := by
  decide +kernel

/-- K7: 0x1F as the sixth character; nothing is sent. -/
theorem test_drawtext_K7 :
    (after (.drawtext false 0 0 (List.replicate 5 0x41 ++ [0x1F] ++ List.replicate 10 0x41)) (ready [])).lastres =
        0x003FE004 ∧
      (after (.drawtext false 0 0 (List.replicate 5 0x41 ++ [0x1F] ++ List.replicate 10 0x41)) (ready [])).trace =
        [] := by decide +kernel

/-- E7, page 7: the byte B7. -/
theorem test_setpage_E7 :
    ((after (.setpage 7) (ready (oks 26))).wireLog.map WireEntry.byte) = [0xB7] := by decide +kernel

theorem test_setcollo_E7 :
    ((after .setcollo (ready (oks 26))).wireLog.map WireEntry.byte) = [0x02] := by decide +kernel

theorem test_setcolhi_E7 :
    ((after .setcolhi (ready (oks 26))).wireLog.map WireEntry.byte) = [0x10] := by decide +kernel

/-! ## Steps -/

/-- V15: a packet one byte short, from READY. -/
theorem test_step_V15 :
    (next? (step { ready [] with inbox := [.packet [0x05, 0xB3, 0x00]] })).map (fun t => (t.lastres, t.trace)) =
      some (0x003FE004, []) := by decide +kernel

/-- T20: malformed is decided before admission. -/
theorem test_step_T20 :
    (next? (step { fresh [] with inbox := [.packet [0x03, 0x80]] })).map (·.lastres) = some 0x00000004 := by
  decide +kernel

/-- R69, D30 with PFAIL left by the command before: an unknown opcode and a wrong length keep it. -/
theorem test_step_malformed_pfail :
    (next? (step { ready [] with pfail := 0x7F, inbox := [.packet [0x06]] })).map (fun t => (t.lastres, t.pfail)) =
        some (0x003FE004, 0x7F) ∧
      (next? (step { ready [] with pfail := 0x7F, inbox := [.packet [0x01, 0x00]] })).map
          (fun t => (t.lastres, t.pfail)) = some (0x003FE004, 0x7F) := by decide +kernel

/-- P3: a recorded request is taken before the waiting packet. -/
theorem test_step_P3 :
    (next? (step { ready (oks 10) with sdreq := true, inbox := [.packet [0x01]] })).map
        (fun t => (t.lastres, t.life, t.inbox, t.trace.length)) =
      some (0x00002800, .shutDown, [.packet [0x01]], 10) := by decide +kernel

/-! ## The converter and the glyphs -/

/-- T6: payload bytes 0 and 112 are 08; byte (0,3) of PB is 81, byte (0,2) is 00. -/
theorem test_toPages_T6 :
    pageByte [(0, 0x08), (112, 0x08)] 0 3 = 0x81 ∧ pageByte [(0, 0x08), (112, 0x08)] 0 2 = 0x00 := by
  decide +kernel

/-- T5, the last pixel; T7, two pages. -/
theorem test_toPages_T5_T7 :
    pageByte [(1023, 0x80)] 7 127 = 0x80 ∧ pageByte [(248, 0x01), (264, 0x01)] 1 64 = 0x80 ∧
      pageByte [(248, 0x01), (264, 0x01)] 2 64 = 0x01 := by decide +kernel

/-- G2 and G4, and G1 inverted. -/
theorem test_glyphs_G1_G2_G4 :
    charBytes testParams false 0x21 = [0x01, 0x02, 0x03, 0x04, 0x05, 0x06, 0x07, 0x08] ∧
      charBytes testParams false 0x7E = [0x5E, 0x5F, 0x60, 0x61, 0x62, 0x63, 0x64, 0x65] ∧
      charBytes testParams true 0x20 = List.replicate 8 0xFF := by decide +kernel

/-- G5 to G8. -/
theorem test_glyphs_G5_G8 :
    glyphIndex 0x1F = none ∧ glyphIndex 0x7F = none ∧ glyphIndex 0x00 = none ∧ glyphIndex 0xFF = none ∧
      glyphIndex 0x80 = none := by decide

/-! ## Witnesses: for every obligation with hypotheses, operands and states that meet them -/

/-- Every instruction's exec answers the next state `after` reads. -/
theorem exec_after (i : Instr) (s : State) : exec i s = .next (after i s) := by cases i <;> rfl

theorem portOk_oks {s : State} {n : Nat} (h : s.answers = oks n) : s.PortOk n := fun k hk => by
  simp [State.answerAt, h, oks, hk]

theorem portOk_failAt {s : State} {n : Nat} (h : s.answers = failAt n) : s.PortOk n ∧ s.answerAt n = .fail := by
  refine ⟨fun k hk => ?_, ?_⟩
  · simp [State.answerAt, h, failAt, oks, List.getElem?_append_left, hk]
  · simp [State.answerAt, h, failAt, oks]

theorem held_ready (answers : List Answer) : SpiLinesHeld (ready answers) :=
  ⟨roleBit_all _, roleBit_all _, roleBit_all _, rfl, rfl, rfl⟩

theorem notHeld_fresh (answers : List Answer) : ¬SpiLinesHeld (fresh answers) := fun h =>
  absurd (h.1.symm.trans (roleBit_zero .clk)) (by decide)

/-- A machine about to take a POWERUP packet. -/
def running : State := { fresh (oks 673) with inbox := [.packet [0x01]] }

theorem step_running : step running = .next (after .powerup (withInbox [] running)) :=
  (step_of_packet (s := running) rfl rfl).trans ((runPacket_ok rfl _).trans (exec_after _ _))

theorem test_witness_DecodeOfEncode : (Instr.drawtext true 0b111 0b1111 (List.replicate 16 0xFF)).WellFormed := by
  decide

theorem test_witness_DecodedPacketReencodes : decode [0x05, 0xB3, 0x03, 0xFF] = .ok (.writebyte 0xB3 0x03 0xFF) :=
  rfl

theorem test_witness_StepRunsDecodedPacket :
    running.sdreq = false ∧ running.inbox = .packet [0x01] :: [] ∧ decode [0x01] = .ok .powerup := ⟨rfl, rfl, rfl⟩

/-- One packet for each reason R69 gives, beside the state. -/
theorem test_witness_MalformedPacketIsRejected :
    ({ fresh [] with inbox := [.packet [0x06]] } : State).sdreq = false ∧
      ({ fresh [] with inbox := [.packet [0x06]] } : State).inbox = .packet [0x06] :: [] ∧
      packetWellFormed [0x06] = false ∧ packetWellFormed [0x00] = false ∧ packetWellFormed [] = false ∧
      packetWellFormed [0x01, 0x00] = false ∧ packetWellFormed [0x03, 0x80] = false ∧
      packetWellFormed (0x04 :: 0x00 :: List.replicate 17 0x20) = false := by decide

/-- A pending request before a packet of each of the three clauses: a command, POWERDOWN, malformed packets. -/
theorem test_witness_ShutdownRequestWinsOverPacket :
    (∀ b : List Byte, ({ running with sdreq := true, inbox := [.packet b] } : State).sdreq = true ∧
      ({ running with sdreq := true, inbox := [.packet b] } : State).inbox = .packet b :: []) ∧
      decode [0x01] = .ok .powerup ∧ Instr.powerup ≠ .powerdown ∧ decode [0x02] = .ok .powerdown ∧
      packetWellFormed [0x06] = false ∧ packetWellFormed [0x01, 0x00] = false :=
  ⟨fun _ => ⟨rfl, rfl⟩, rfl, by decide, rfl, by decide, by decide⟩

theorem test_witness_ShutdownRequestTakenWhenIdle :
    ({ fresh [] with sdreq := true } : State).sdreq = true ∧ (fresh []).inbox = [] ∧
      ({ fresh [] with inbox := [.idle] } : State).inbox = .idle :: [] := ⟨rfl, rfl, rfl⟩

theorem test_witness_RequestArrivalAndIdling :
    ({ fresh [] with inbox := [.shutdown], sdreq := true } : State).inbox = .shutdown :: [] ∧
      ({ fresh [] with inbox := [.idle] } : State).inbox = .idle :: [] ∧ (fresh []).sdreq = false ∧
      (fresh []).inbox = [] := ⟨rfl, rfl, rfl, rfl⟩

theorem test_witness_HardwareResetFromAnyState :
    ({ ready [] with sdreq := true, inbox := [.hardReset, .idle] } : State).inbox = .hardReset :: [.idle] := rfl

/-- The least and the greatest valid mode, both orders. -/
theorem test_witness_WriteByteSendsItsByte :
    SpiLinesHeld (ready (oks 27)) ∧ (0x00 : Byte).toNat ≤ 3 ∧ (0x03 : Byte).toNat ≤ 3 ∧
      ((0x00 : Byte) = 0 ∧ BitOrder.msbFirst = .msbFirst ∨ (0x00 : Byte) = 1 ∧ BitOrder.msbFirst = .lsbFirst) ∧
      ((0x01 : Byte) = 0 ∧ BitOrder.lsbFirst = .msbFirst ∨ (0x01 : Byte) = 1 ∧ BitOrder.lsbFirst = .lsbFirst) :=
  ⟨held_ready _, by decide, by decide, .inl ⟨rfl, rfl⟩, .inr ⟨rfl, rfl⟩⟩

/-- Not held; held with the first invalid mode, with the first invalid order. -/
theorem test_witness_WriteByteRefusals :
    ¬SpiLinesHeld (fresh []) ∧ SpiLinesHeld (ready []) ∧ 3 < (0x04 : Byte).toNat ∧ 1 < (0x02 : Byte).toNat :=
  ⟨notHeld_fresh _, held_ready _, by decide, by decide⟩

theorem test_witness_DataBitsInOrder :
    SpiLinesHeld (ready (oks 27)) ∧ (0x03 : Byte).toNat ≤ 3 ∧ (0x01 : Byte).toNat ≤ 1 :=
  ⟨held_ready _, by decide, by decide⟩

theorem test_witness_ByteEventAndTransitionCounts :
    SpiLinesHeld (ready (oks 27)) ∧ (0x00 : Byte).toNat ≤ 3 ∧ (0x00 : Byte).toNat ≤ 1 :=
  ⟨held_ready _, by decide, by decide⟩

/-- The inner hypotheses as well: no clock write fails, no data write fails. -/
theorem test_witness_ClockEndsAtIdleLevel :
    SpiLinesHeld (ready (oks 27)) ∧ (0x02 : Byte).toNat ≤ 3 ∧ (0x01 : Byte).toNat ≤ 1 ∧
      failedOn .clk (after (.writebyte 0xB3 0x02 0x01) (ready (oks 27))).events = false ∧
      failedOn .mosi (after (.writebyte 0xB3 0x02 0x01) (ready (oks 27))).events = false :=
  ⟨held_ready _, by decide, by decide, by decide +kernel, by decide +kernel⟩

/-- A mode of each kind. -/
theorem test_witness_ReceiverReadsEightBits :
    SpiLinesHeld (ready (oks 27)) ∧ (0x03 : Byte).toNat ≤ 3 ∧ (0x02 : Byte).toNat ≤ 3 ∧
      ((0x03 : Byte) = 1 ∨ (0x03 : Byte) = 3) ∧ ((0x02 : Byte) = 0 ∨ (0x02 : Byte) = 2) ∧
      ((0x01 : Byte) = 0 ∧ BitOrder.lsbFirst = .msbFirst ∨ (0x01 : Byte) = 1 ∧ BitOrder.lsbFirst = .lsbFirst) :=
  ⟨held_ready _, by decide, by decide, .inr rfl, .inr rfl, .inr ⟨rfl, rfl⟩⟩

/-- A call that runs and one that is refused; a pin the frame speaks about. -/
theorem test_witness_WriteByteFrame :
    exec (.writebyte 0xB3 3 0) (ready (oks 26)) = .next (after (.writebyte 0xB3 3 0) (ready (oks 26))) ∧
      exec (.writebyte 0xB3 4 0) (fresh []) = .next (after (.writebyte 0xB3 4 0) (fresh [])) ∧
      Role.dc ≠ .clk ∧ Role.dc ≠ .mosi := ⟨exec_after _ _, exec_after _ _, by decide, by decide⟩

/-- Under TP the call count is 20 + 25 * 26 = 670; the port answers no more than these. -/
theorem test_witness_PowerUpReachesReady :
    (fresh (oks 670)).life = .uninitialized ∧
      (fresh (oks 670)).PortOk (20 + 25 * eventsPerByte (fresh (oks 670)).params.cfgMode) :=
  ⟨rfl, portOk_oks rfl⟩

/-- The first and the last call of each of the five steps. -/
theorem test_witness_PowerUpStopsAtStepBoundary :
    ∀ k ∈ [0, 6, 7, 13, 14, 15, 16, 19, 20, 669],
      (fresh (failAt k)).life = .uninitialized ∧ (fresh (failAt k)).PortOk k ∧
        (fresh (failAt k)).answerAt k = .fail ∧ k < 20 + 25 * eventsPerByte (fresh (failAt k)).params.cfgMode := by
  intro k hk
  refine ⟨rfl, (portOk_failAt rfl).1, (portOk_failAt rfl).2, ?_⟩
  have : eventsPerByte (fresh (failAt k)).params.cfgMode = 26 := by
    show eventsPerByte testParams.cfgMode = 26
    decide
  rw [this]
  revert k
  decide

theorem test_witness_FailedAcquisitionKeepsPartialPins :
    (fresh (failAt 6)).life = .uninitialized ∧ ∃ k, k < 7 ∧ (fresh (failAt 6)).answerAt k = .fail :=
  ⟨rfl, 6, by decide, (portOk_failAt rfl).2⟩

theorem test_witness_FailedDirectionRestsInPinsAcquired :
    (fresh (failAt 7)).life = .uninitialized ∧ (fresh (failAt 7)).PortOk 7 ∧
      ∃ k, 7 ≤ k ∧ k < 14 ∧ (fresh (failAt 7)).answerAt k = .fail :=
  ⟨rfl, (portOk_failAt rfl).1, 7, by decide, by decide, (portOk_failAt rfl).2⟩

theorem test_witness_PowerUpOnlyInUninitialized : (ready []).life ≠ .uninitialized := by decide

theorem test_witness_PowerUpFrame :
    exec .powerup (fresh (oks 673)) = .next (after .powerup (fresh (oks 673))) := exec_after _ _

theorem test_witness_PowerDownIsIdempotent :
    exec .powerdown (ready (oks 10)) = .next (after .powerdown (ready (oks 10))) := exec_after _ _

theorem test_witness_PowerDownFrame :
    exec .powerdown (fresh []) = .next (after .powerdown (fresh [])) ∧ roleBit (fresh []).acq .clk = false :=
  ⟨exec_after _ _, rfl⟩

theorem test_witness_DrawFrameSendsWholeFrame :
    (ready []).life = .ready ∧ FrameOperandsValid 0x80 0x40 (List.replicate 1024 0xFF) :=
  ⟨rfl, rfl, rfl, List.length_replicate⟩

theorem test_witness_DrawFrameWireEntries :
    (ready (oks 27264)).life = .ready ∧ FrameOperandsValid 0x80 0x40 (List.replicate 1024 0xFF) ∧
      (ready (oks 27264)).PortOk (frameEvents (ready (oks 27264)).params (List.replicate 1024 0xFF)).length := by
  refine ⟨rfl, ⟨rfl, rfl, List.length_replicate⟩, ?_⟩
  rw [length_frameEvents]
  exact portOk_oks rfl

/-- Not Ready; Ready with the dimensions transposed, with a payload one byte short, one byte long. -/
theorem test_witness_DrawFrameRefusals :
    (fresh []).life ≠ .ready ∧ (ready []).life = .ready ∧
      ¬FrameOperandsValid 0x40 0x80 (List.replicate 1024 0) ∧
      ¬FrameOperandsValid 0x80 0x40 (List.replicate 1023 0) ∧
      ¬FrameOperandsValid 0x80 0x40 (List.replicate 1025 0) := by
  refine ⟨by decide, rfl, fun h => absurd h.1 (by decide), fun h => ?_, fun h => ?_⟩
  · have := h.2.2
    rw [List.length_replicate] at this
    omega
  · have := h.2.2
    rw [List.length_replicate] at this
    omega

theorem test_witness_DrawFrameFrame :
    exec (.drawframe 0x80 0x40 (List.replicate 1024 0)) (ready []) =
      .next (after (.drawframe 0x80 0x40 (List.replicate 1024 0)) (ready [])) := exec_after _ _

/-- The last page, column and bit; the last row. -/
theorem test_witness_ToPagesTransposes : 7 < 8 ∧ 127 < 128 ∧ 63 < 64 := by decide

/-- A memory with its first and its last byte set. -/
theorem test_witness_PagesRoundTrip :
    Memory.wf [(0, 0x01), (1023, 0x80)] ∧ (∀ c ∈ ([(0, 0x01), (1023, 0x80)] : Memory), c.1 < 1024) ∧
      63 < 64 ∧ 127 < 128 := by decide

/-- The first and the last row, the least and the greatest character. -/
theorem test_witness_DrawTextSendsOnePage :
    (ready []).life = .ready ∧ blank.length = 16 ∧ TextOperandsValid 0 0 blank ∧
      (List.replicate 16 (0x7E : Byte)).length = 16 ∧ TextOperandsValid 0 7 (List.replicate 16 0x7E) := by
  refine ⟨rfl, rfl, ⟨rfl, by decide, by decide⟩, rfl, ⟨rfl, by decide, by decide⟩⟩

theorem test_witness_DrawTextWireEntries :
    (ready (oks 3408)).life = .ready ∧ blank.length = 16 ∧ TextOperandsValid 0 7 blank ∧
      (ready (oks 3408)).PortOk (textEvents (ready (oks 3408)).params true 7 blank).length := by
  have hv : TextOperandsValid 0 7 blank := ⟨rfl, by decide, by decide⟩
  refine ⟨rfl, rfl, hv, ?_⟩
  rw [textEvents, length_pageEvents, length_lineBytes hv.2.2]
  exact portOk_oks rfl

/-- A wrong length; not Ready; Ready with a reserved bit, row 8, the code below the first character and the one
above the last. -/
theorem test_witness_DrawTextRefusals :
    (List.replicate 15 (0x20 : Byte)).length ≠ 16 ∧ blank.length = 16 ∧ (fresh []).life ≠ .ready ∧
      (ready []).life = .ready ∧ ¬TextOperandsValid 1 0 blank ∧ ¬TextOperandsValid 0 8 blank ∧
      ¬TextOperandsValid 0 0 (0x1F :: List.replicate 15 0x20) ∧
      ¬TextOperandsValid 0 0 (0x7F :: List.replicate 15 0x20) := by
  refine ⟨by decide, rfl, by decide, rfl, fun h => absurd h.1 (by decide), fun h => absurd h.2.1 (by decide),
    fun h => ?_, fun h => ?_⟩
  · exact absurd (h.2.2 0x1F (List.mem_cons_self ..)).1 (by decide)
  · exact absurd (h.2.2 0x7F (List.mem_cons_self ..)).2 (by decide)

theorem test_witness_InvertedTextIsComplement :
    (ready []).life = .ready ∧ blank.length = 16 ∧ TextOperandsValid 0#3 7 blank :=
  ⟨rfl, rfl, rfl, by decide, by decide⟩

theorem test_witness_GlyphLookup : glyphIndex 0x20 = some 0 ∧ glyphIndex 0x7E = some 94 := by decide

/-- A line that is accepted and one of another length. -/
theorem test_witness_DrawTextFrame :
    exec (.drawtext true 0 7 blank) (ready []) = .next (after (.drawtext true 0 7 blank) (ready [])) ∧
      exec (.drawtext true 0 7 []) (ready []) = .next (after (.drawtext true 0 7 []) (ready [])) ∧
      ([] : List Byte).length ≠ 16 := ⟨exec_after _ _, exec_after _ _, by decide⟩

theorem test_witness_WireCommandsSendOneByte :
    (∃ p : BitVec 3, Instr.setpage 7 = .setpage p ∧ (0xB7#8) = 0xB0#8 + p.setWidth 8) ∧
      (Instr.setcollo = .setcollo ∧ 0x02#8 = 0x02#8) ∧ (Instr.setcolhi = .setcolhi ∧ 0x10#8 = 0x10#8) :=
  ⟨⟨7, rfl, rfl⟩, ⟨rfl, rfl⟩, rfl, rfl⟩

theorem test_witness_WireCommandFrame :
    (Instr.setpage 7).space = .wire ∧ exec (.setpage 7) (ready []) = .next (after (.setpage 7) (ready [])) ∧
      Instr.setcollo.space = .wire ∧ Instr.setcolhi.space = .wire := ⟨rfl, exec_after _ _, rfl, rfl⟩

/-- The first call fails, the last, call 79 under TP, answers ok. -/
theorem test_witness_PreambleAddressesPage :
    (ready (.fail :: oks 79)).answerAt 0 = .fail ∧
      (ready (.fail :: oks 79)).answerAt (1 + 3 * eventsPerByte (ready (.fail :: oks 79)).params.cfgMode) = .ok :=
  ⟨rfl, rfl⟩

theorem test_witness_StepKeepsLifecycle :
    LifecycleInv running ∧ step running = .next (after .powerup (withInbox [] running)) :=
  ⟨⟨by decide, by decide, fun _ => rfl, by decide, by decide, fun _ => ⟨rfl, rfl⟩⟩, step_running⟩

theorem test_witness_StepKeepsRegistersFollowingTrace :
    FollowsTrace running ∧ step running = .next (after .powerup (withInbox [] running)) :=
  ⟨⟨rfl, rfl, rfl, fun _ h => (nomatch h)⟩, step_running⟩

theorem test_witness_StepTouchesHeldPinsOnly :
    LifecycleInv running ∧ FollowsTrace running ∧ TouchesHeldOnly running.trace ∧
      step running = .next (after .powerup (withInbox [] running)) :=
  ⟨test_witness_StepKeepsLifecycle.1, test_witness_StepKeepsRegistersFollowingTrace.1, trivial, step_running⟩

theorem test_witness_StepNeverReadsAPin :
    NeverReads running ∧ step running = .next (after .powerup (withInbox [] running)) :=
  ⟨fun _ h => (nomatch h), step_running⟩

theorem test_witness_StepKeepsMemories :
    MemoryInv running ∧ step running = .next (after .powerup (withInbox [] running)) :=
  ⟨⟨by decide, by decide, by decide, fun _ h => (nomatch h), fun _ h => (nomatch h), fun _ h => (nomatch h)⟩,
    step_running⟩

theorem test_witness_StepKeepsResultWord :
    ResultInv running ∧ step running = .next (after .powerup (withInbox [] running)) :=
  ⟨⟨by decide, by decide⟩, step_running⟩

theorem test_witness_LifecycleMovesForward :
    step running = .next (after .powerup (withInbox [] running)) ∧ running.inbox.head? ≠ some .hardReset :=
  ⟨step_running, by decide⟩

theorem test_witness_ParametersNeverChange :
    step running = .next (after .powerup (withInbox [] running)) := step_running

theorem test_witness_ChipSelectOnlyInPowerUp :
    Instr.powerdown ≠ .powerup ∧ exec .powerdown (ready (oks 10)) = .next (after .powerdown (ready (oks 10))) :=
  ⟨by decide, exec_after _ _⟩

/-- An InvalidArgument, and a SequenceViolation. -/
theorem test_witness_RefusedCommandsAreExact :
    (Instr.writebyte 0 4 0).space = .host ∧
      exec (.writebyte 0 4 0) (ready []) = .next (after (.writebyte 0 4 0) (ready [])) ∧
      (after (.writebyte 0 4 0) (ready [])).lastres.getLsbD 2 = true ∧
      (after (.writebyte 0 4 0) (fresh [])).lastres.getLsbD 3 = true :=
  ⟨rfl, exec_after _ _, by decide +kernel, by decide +kernel⟩

end Sys2Proof.Tests
end

section
/-! SUPPORT. TRACE determines LVL, ACQ and DIR: a run of answered events that updates the three registers entry by
entry keeps `FollowsTrace`, and each port primitive is such a run of one event (`10_state.md` R12, R13). -/

namespace Sys2Proof

open Sys2Proof.Machine

/-- A call gets an answer and a delay none (`00_scope.md` R9). -/
theorem answer_eq_none_iff_of_mem_answered {s : State} {k : Nat} {es : List PortEvent} {x : Entry}
    (h : x ∈ answered s k es) : x.answer = none ↔ x.event.role? = none := by
  induction es generalizing k with
  | nil => cases h
  | cons e es ih =>
    cases hr : e.role? with
    | none =>
      obtain ⟨ms, rfl⟩ := role?_eq_none hr
      rw [answered_cons_delay, List.mem_cons] at h
      rcases h with rfl | h
      · exact iff_of_true rfl rfl
      · exact ih h
    | some r =>
      rw [answered_cons_call hr, List.mem_cons] at h
      rcases h with rfl | h
      · exact iff_of_false (by simp) (by simp [hr])
      · exact ih h

/-- Issuing events whose entries also give the new ACQ and DIR keeps the registers functions of TRACE; for LVL,
`Issued` itself says it. -/
theorem followsTrace_of_issued {es : List PortEvent} {s t : State} (h : FollowsTrace s) (hi : Issued es s t)
    (hacq : t.acq = (answered s 0 es).foldl (fun b x => heldAfter x b) s.acq)
    (hdir : t.dir = (answered s 0 es).foldl (fun d x => dirAfter x d) s.dir) : FollowsTrace t where
  lvl := by rw [hi.lvl, hi.events, replayLevels_append, ← h.lvl]
  acq := by rw [hacq, hi.events, List.foldl_append, ← h.acq]
  dir := by rw [hdir, hi.events, List.foldl_append, ← h.dir]
  answered x hx := by
    rw [hi.trace, List.mem_append, List.mem_reverse] at hx
    rcases hx with hnew | hold
    · exact answer_eq_none_iff_of_mem_answered hnew
    · exact h.answered x hold

/-- `FollowsTrace` looks at TRACE, LVL, ACQ and DIR only. -/
theorem FollowsTrace.congr {s t : State} (h : FollowsTrace s) (hst : SamePort s t) : FollowsTrace t := by
  obtain ⟨htrace, hlvl, hacq, hdir⟩ := hst
  have hevents : t.events = s.events := by rw [State.events, State.events, htrace]
  exact ⟨by rw [hlvl, hevents, h.lvl], by rw [hacq, hevents, h.acq], by rw [hdir, hevents, h.dir],
    by rw [htrace]; exact h.answered⟩

theorem FollowsTrace.acquirePin {s : State} (h : FollowsTrace s) (r : Role) :
    FollowsTrace (Machine.acquirePin r s) := by
  refine followsTrace_of_issued h (issued_acquirePin r s) ?_ (acquirePin_dir r s)
  rw [answered_cons_call rfl, Machine.acquirePin]
  cases ha : s.answerAt 0 with
  | ok => simp [heldAfter]
  | fail => simp [heldAfter]

theorem FollowsTrace.directPin {s : State} (h : FollowsTrace s) (d : PinDir) (r : Role) :
    FollowsTrace (Machine.directPin d r s) := by
  refine followsTrace_of_issued h (issued_directPin d r s) (directPin_acq d r s) ?_
  rw [answered_cons_call rfl, Machine.directPin]
  cases ha : s.answerAt 0 with
  | ok => simp [dirAfter]
  | fail => simp [dirAfter]

theorem followsTrace_reset : FollowsTrace State.reset := ⟨rfl, rfl, rfl, fun _ h => (nomatch h)⟩

/-- Each port primitive appends the entry that accounts for its update of LVL, ACQ and DIR. -/
theorem portClosed_followsTrace : PortClosed FollowsTrace where
  pwrite r v s h := followsTrace_of_issued h (issued_pwrite r v s) (pwrite_acq r v s) (pwrite_dir r v s)
  delay ms s h := followsTrace_of_issued h (issued_delay ms s) (delay_acq ms s) (delay_dir ms s)
  acquire r _ h := h.acquirePin r
  direct d r _ h := h.directPin d r
  release r s h := followsTrace_of_issued h (issued_releasePin r s) rfl rfl
  other _ _ hst h := h.congr hst

/-- Settles O48: every step is made of port primitives, each of which keeps `FollowsTrace`; a hardware reset empties
TRACE and puts the registers at the values an empty TRACE gives. -/
theorem stepKeepsRegistersFollowingTrace : Obligations.StepKeepsRegistersFollowingTrace := by
  intro s t hs he
  exact portClosed_followsTrace.step (fun u _ => followsTrace_reset.congr (t := hardwareReset u) samePort_rfl) he hs

end Sys2Proof
end

section
/-! SUPPORT. The session registers LIFE, INITED, ACQ, DIR and the parameters: every instruction but POWERUP and
POWERDOWN keeps all five, and these two keep the parameters. -/

namespace Sys2Proof

open Sys2Proof.Machine

/-- LIFE, INITED, ACQ, DIR and the parameters are equal. -/
structure SameSession (s t : State) : Prop where
  life : t.life = s.life
  inited : t.inited = s.inited
  acq : t.acq = s.acq
  dir : t.dir = s.dir
  params : t.params = s.params

theorem sameSession_refusedWith (k : ErrorKind) (s : State) : SameSession s (refusedWith k s) :=
  ⟨rfl, rfl, rfl, rfl, rfl⟩

/-- The result word of a command that has sent something is the only thing its end writes. -/
theorem SameSession.endWithPortCheck {s t : State} (h : SameSession s t) :
    SameSession s (Machine.endWithPortCheck t) :=
  ⟨by simp [h.life], by simp [h.inited], by simp [h.acq], by simp [h.dir], by simp [h.params]⟩

theorem sameSession_writeByte (v : Byte) (m : SpiMode) (o : BitOrder) (s : State) :
    SameSession s (writeByte v m o (beginCommand s)) := ⟨by simp, by simp, by simp, by simp, by simp⟩

theorem sameSession_sendByte (v : Byte) (s : State) : SameSession s (sendByte v s) :=
  ⟨by simp, by simp, by simp, by simp, by simp⟩

theorem sameSession_frameSent (payload : List Byte) (s : State) : SameSession s (frameSent payload s) :=
  ⟨by simp, by simp, by simp, by simp, by simp⟩

theorem sameSession_textSent (inv : Bool) (row : BitVec 4) (line : List Byte) (s : State) :
    SameSession s (textSent inv row line s) := ⟨by simp, by simp, by simp, by simp, by simp⟩

theorem exec_writebyte_sameSession {data mode order : Byte} {s t : State}
    (h : exec (.writebyte data mode order) s = .next t) : SameSession s t := by
  by_cases hl : SpiLinesHeld s
  · by_cases hm : mode.toNat ≤ 3
    · cases ho : decodeOrder order with
      | some o =>
        cases (exec_writebyte hl hm ho).symm.trans h
        exact (sameSession_writeByte _ _ _ s).endWithPortCheck
      | none =>
        cases (exec_writebyte_invalid hl (.inr ho)).symm.trans h
        exact sameSession_refusedWith _ s
    · cases (exec_writebyte_invalid hl (.inl (decodeMode_of_gt (Nat.lt_of_not_le hm)))).symm.trans h
      exact sameSession_refusedWith _ s
  · cases (exec_writebyte_notHeld hl).symm.trans h
    exact sameSession_refusedWith _ s

theorem exec_drawframe_sameSession {w k : Byte} {payload : List Byte} {s t : State}
    (h : exec (.drawframe w k payload) s = .next t) : SameSession s t := by
  by_cases hl : s.life = .ready
  · by_cases hv : FrameOperandsValid w k payload
    · cases (exec_drawframe_sent hl hv).symm.trans h
      exact (sameSession_frameSent payload s).endWithPortCheck
    · cases (exec_drawframe_invalid hl hv).symm.trans h
      exact sameSession_refusedWith _ s
  · cases (exec_drawframe_notReady hl).symm.trans h
    exact sameSession_refusedWith _ s

theorem exec_drawtext_sameSession {inv : Bool} {rsv : BitVec 3} {row : BitVec 4} {line : List Byte} {s t : State}
    (h : exec (.drawtext inv rsv row line) s = .next t) : SameSession s t := by
  by_cases hn : line.length = 16
  · by_cases hl : s.life = .ready
    · by_cases hv : TextOperandsValid rsv row line
      · cases (exec_drawtext_sent hn hl hv).symm.trans h
        exact (sameSession_textSent inv row line s).endWithPortCheck
      · cases (exec_drawtext_invalid hn hl hv).symm.trans h
        exact sameSession_refusedWith _ s
    · cases (exec_drawtext_notReady hn hl).symm.trans h
      exact sameSession_refusedWith _ s
  · cases (exec_drawtext_malformed hn).symm.trans h
    exact sameSession_refusedWith _ s

/-- Only POWERUP and POWERDOWN write LIFE, INITED, ACQ or DIR. -/
theorem exec_sameSession {i : Instr} {s t : State} (hup : i ≠ .powerup) (hdown : i ≠ .powerdown)
    (h : exec i s = .next t) : SameSession s t := by
  cases i with
  | powerup => exact absurd rfl hup
  | powerdown => exact absurd rfl hdown
  | drawframe w k payload => exact exec_drawframe_sameSession h
  | drawtext inv rsv row line => exact exec_drawtext_sameSession h
  | writebyte data mode order => exact exec_writebyte_sameSession h
  | setpage p => cases h; exact sameSession_sendByte _ s
  | setcollo => cases h; exact sameSession_sendByte _ s
  | setcolhi => cases h; exact sameSession_sendByte _ s

theorem exec_powerup_params {s t : State} (h : exec .powerup s = .next t) : t.params = s.params := by
  by_cases hl : s.life = .uninitialized
  · rcases exec_powerup_cases hl with ⟨-, e⟩ | ⟨-, -, e⟩ | ⟨-, -, -, e⟩ | ⟨-, -, -, -, e⟩ | ⟨-, -, -, -, -, e⟩ |
      ⟨-, -, -, -, -, e⟩ <;> cases e.symm.trans h <;> simp
  · cases (exec_powerup_refused hl).symm.trans h
    rfl

theorem exec_params {i : Instr} {s t : State} (h : exec i s = .next t) : t.params = s.params := by
  by_cases hup : i = .powerup
  · subst hup
    exact exec_powerup_params h
  by_cases hdown : i = .powerdown
  · subst hdown
    cases h
    simp
  exact (exec_sameSession hup hdown h).params

/-- Settles O54, by the cases of a step: it executes one instruction, runs POWERDOWN's body, or issues nothing. -/
theorem parametersNeverChange : Obligations.ParametersNeverChange := by
  intro s t h
  rcases step_cases h with ⟨rest, -, rfl⟩ | ⟨rest, -, rfl⟩ | ⟨-, rfl⟩ | ⟨_, rest, _, -, -, -, he⟩ |
    ⟨_, rest, _, -, -, -, rfl⟩ | ⟨rest, rfl⟩
  · rfl
  · rfl
  · simp [takeShutdown]
  · exact (exec_params he).trans (withInbox_params rest s)
  · rfl
  · rfl

end Sys2Proof
end

section
/-! SUPPORT. The lifecycle invariant, said once per value of LIFE, and that POWERUP and POWERDOWN keep it
(`41_sh1106_controller.md` R90, R91, R101). -/

namespace Sys2Proof

open Sys2Proof.Machine

/-- What INITED, ACQ and DIR are at rest in each value of LIFE. -/
def LifecycleAt (l : Life) (inited : Bool) (acq : BitVec 7) (dir : Pins (Option PinDir)) : Prop :=
  match l with
  | .uninitialized => inited = false ∧ dir = Pins.all none
  | .pinsAcquired => inited = false ∧ acq = 0x7F#7
  | .reset => inited = false ∧ acq = 0x7F#7 ∧ dir = sessionDir
  | .commandInitialized => False
  | .ready => inited = true ∧ acq = 0x7F#7 ∧ dir = sessionDir
  | .shutDown => inited = false ∧ acq = 0#7 ∧ dir = Pins.all none

theorem lifecycleInv_iff (s : State) : LifecycleInv s ↔ LifecycleAt s.life s.inited s.acq s.dir := by
  constructor
  · rintro ⟨hinited, hrest, hundirected, hacq, hdir, hreleased⟩
    cases hl : s.life <;> simp_all [LifecycleAt]
  · intro h
    cases hl : s.life <;> rw [hl] at h <;> simp only [LifecycleAt] at h <;> constructor <;> simp [hl, h]

/-- The invariant looks at LIFE, INITED, ACQ and DIR only. -/
theorem LifecycleInv.congr {s t : State} (h : LifecycleInv s) (hlife : t.life = s.life)
    (hinited : t.inited = s.inited) (hacq : t.acq = s.acq) (hdir : t.dir = s.dir) : LifecycleInv t := by
  rw [lifecycleInv_iff, hlife, hinited, hacq, hdir, ← lifecycleInv_iff]
  exact h

theorem lifecycleInv_reset : LifecycleInv State.reset := (lifecycleInv_iff _).mpr ⟨rfl, rfl⟩

/-- A pin that is directed is held. -/
theorem LifecycleInv.held_or_undirected {s : State} (h : LifecycleInv s) (r : Role) :
    roleBit s.acq r = true ∨ s.dir.get r = none := by
  rw [lifecycleInv_iff] at h
  cases hl : s.life <;> rw [hl] at h
  case uninitialized =>
    obtain ⟨-, hdir⟩ := h
    exact .inr (by simp [hdir])
  case shutDown =>
    obtain ⟨-, -, hdir⟩ := h
    exact .inr (by simp [hdir])
  case pinsAcquired =>
    obtain ⟨-, hacq⟩ := h
    exact .inl (by simp [hacq])
  case reset | ready =>
    obtain ⟨-, hacq, -⟩ := h
    exact .inl (by simp [hacq])
  case commandInitialized => exact h.elim

/-- POWERDOWN drops the direction of each held pin, and no other pin has one. -/
theorem LifecycleInv.powerDownCommand {s : State} (h : LifecycleInv s) :
    LifecycleInv (Machine.powerDownCommand s) := by
  obtain ⟨-, hacq, hdir, hlife, hinited, -⟩ := powerDownCommand_spec s
  rw [lifecycleInv_iff, hlife]
  refine ⟨hinited, hacq, Pins.ext_get fun r => ?_⟩
  rw [hdir, Pins.get_all]
  rcases h.held_or_undirected r with hheld | hnone
  · rw [if_pos hheld]
  · rw [hnone, ite_self]

/-- At the first step boundary of a POWERUP without a failed call, every pin is held. -/
theorem stageAcquire_acq_of_pfail {s : State} (h : (stageAcquire s).pfail = 0#7) :
    (stageAcquire s).acq = 0x7F#7 := by
  unfold stageAcquire at h ⊢
  exact acquireAll_acq_of_pfail rfl h

/-- At the second, every pin has its direction. -/
theorem stageDirect_dir_of_pfail {s : State} (h0 : (stageAcquire s).pfail = 0#7)
    (h : (stageDirect s).pfail = 0#7) : (stageDirect s).dir = sessionDir := by
  unfold stageDirect at h ⊢
  exact directAll_dir_of_pfail h0 h

/-- Wherever the chain of POWERUP stops, it rests in a value of LIFE whose registers the steps before have set. -/
theorem LifecycleInv.powerup {s t : State} (hs : LifecycleInv s) (h : exec .powerup s = .next t) :
    LifecycleInv t := by
  by_cases hl : s.life = .uninitialized
  · have hs' := (lifecycleInv_iff s).mp hs
    rw [hl] at hs'
    obtain ⟨hinited, hdir⟩ := hs'
    rw [lifecycleInv_iff]
    rcases exec_powerup_cases hl with ⟨-, e⟩ | ⟨h0, -, e⟩ | ⟨h0, -, -, e⟩ | ⟨h0, -, -, -, e⟩ |
      ⟨h0, h1, -, -, -, e⟩ | ⟨h0, h1, -, -, -, e⟩ <;> cases e.symm.trans h
    · simp [LifecycleAt, hl, hinited, hdir]
    · simp [LifecycleAt, hinited, stageAcquire_acq_of_pfail h0]
    · simp [LifecycleAt, hinited, stageAcquire_acq_of_pfail h0]
    · simp [LifecycleAt, hinited, stageAcquire_acq_of_pfail h0]
    · simp [LifecycleAt, hinited, stageAcquire_acq_of_pfail h0, stageDirect_dir_of_pfail h0 h1]
    · simp [LifecycleAt, stageAcquire_acq_of_pfail h0, stageDirect_dir_of_pfail h0 h1]
  · cases (exec_powerup_refused hl).symm.trans h
    exact hs.congr rfl rfl rfl rfl

theorem LifecycleInv.exec {i : Instr} {s t : State} (hs : LifecycleInv s) (h : Machine.exec i s = .next t) :
    LifecycleInv t := by
  by_cases hup : i = .powerup
  · subst hup
    exact hs.powerup h
  by_cases hdown : i = .powerdown
  · subst hdown
    cases h
    exact (hs.congr (t := beginCommand s) rfl rfl rfl rfl).powerDownCommand
  · obtain ⟨hlife, hinited, hacq, hdir, -⟩ := exec_sameSession hup hdown h
    exact hs.congr hlife hinited hacq hdir

/-- Settles O47, by the cases of a step: it executes one instruction, runs POWERDOWN's body, resets the block, or
leaves LIFE, INITED, ACQ and DIR. -/
theorem stepKeepsLifecycle : Obligations.StepKeepsLifecycle := by
  intro s t hs h
  rcases step_cases h with ⟨rest, -, rfl⟩ | ⟨rest, -, rfl⟩ | ⟨-, rfl⟩ | ⟨_, rest, _, -, -, -, he⟩ |
    ⟨_, rest, _, -, -, -, rfl⟩ | ⟨rest, rfl⟩
  · exact lifecycleInv_reset.congr rfl rfl rfl rfl
  · exact hs.congr rfl rfl rfl rfl
  · exact (hs.congr (t := beginCommand { s with sdreq := false }) rfl rfl rfl rfl).powerDownCommand
  · exact (hs.congr (t := withInbox rest s) rfl rfl rfl rfl).exec he
  · exact hs.congr rfl rfl rfl rfl
  · exact hs.congr rfl rfl rfl rfl

end Sys2Proof
end

section
/-! SUPPORT. The reset state: its values (`10_state.md` R28), and that every invariant holds there. -/

namespace Sys2Proof

open Sys2Proof.Machine

/-- Settles O11: each register by its value in `State.reset`. -/
theorem resetStateHasSpecValues : Obligations.ResetStateHasSpecValues :=
  ⟨rfl, rfl, rfl, Pins.get_all none, Pins.get_all Level.unknown, rfl, rfl, rfl, rfl, rfl⟩

theorem neverReads_reset : NeverReads State.reset := fun _ h => (nomatch h)

theorem touchesHeldOnly_reset : TouchesHeldOnly State.reset.trace := trivial

theorem memoryWf_nil : Memory.wf [] := ⟨.nil, fun _ h => (nomatch h)⟩

theorem memoryInv_reset : MemoryInv State.reset :=
  ⟨memoryWf_nil, memoryWf_nil, memoryWf_nil, fun _ h => (nomatch h), fun _ h => (nomatch h), fun _ h => (nomatch h)⟩

theorem resultInv_reset : ResultInv State.reset := ⟨by decide, by decide⟩

/-- Settles O46: TRACE and the memories list nothing, LASTRES is 0 and nothing is held or directed. -/
theorem invariantsAtReset : Obligations.InvariantsAtReset :=
  ⟨lifecycleInv_reset, followsTrace_reset, neverReads_reset, touchesHeldOnly_reset, memoryInv_reset,
    resultInv_reset⟩

end Sys2Proof
end

section
/-! SUPPORT. What WRITEBYTE, DRAWFRAME and DRAWTEXT can end in: a refusal, or everything sent, each with the
conditions it ends so under. -/

namespace Sys2Proof

open Sys2Proof.Machine

/-- Each end of a WRITEBYTE: refused, or its byte sent. -/
theorem exec_writebyte_cases {data mode order : Byte} {s t : State}
    (h : exec (.writebyte data mode order) s = .next t) :
    (∃ k, t = refusedWith k s) ∨
      ∃ o, decodeOrder order = some o ∧ mode.toNat ≤ 3 ∧ SpiLinesHeld s ∧
        t = endWithPortCheck (writeByte data (mode.setWidth 2) o (beginCommand s)) := by
  by_cases hl : SpiLinesHeld s
  · by_cases hm : mode.toNat ≤ 3
    · cases ho : decodeOrder order with
      | some o =>
        cases (exec_writebyte hl hm ho).symm.trans h
        exact .inr ⟨o, rfl, hm, hl, rfl⟩
      | none =>
        cases (exec_writebyte_invalid hl (.inr ho)).symm.trans h
        exact .inl ⟨_, rfl⟩
    · cases (exec_writebyte_invalid hl (.inl (decodeMode_of_gt (Nat.lt_of_not_le hm)))).symm.trans h
      exact .inl ⟨_, rfl⟩
  · cases (exec_writebyte_notHeld hl).symm.trans h
    exact .inl ⟨_, rfl⟩

/-- Each end of a DRAWFRAME: refused, or a whole frame sent. -/
theorem exec_drawframe_cases {w k : Byte} {payload : List Byte} {s t : State}
    (h : exec (.drawframe w k payload) s = .next t) :
    (∃ e, t = refusedWith e s) ∨
      (s.life = .ready ∧ FrameOperandsValid w k payload ∧ t = endWithPortCheck (frameSent payload s)) := by
  by_cases hl : s.life = .ready
  · by_cases hv : FrameOperandsValid w k payload
    · cases (exec_drawframe_sent hl hv).symm.trans h
      exact .inr ⟨hl, hv, rfl⟩
    · cases (exec_drawframe_invalid hl hv).symm.trans h
      exact .inl ⟨_, rfl⟩
  · cases (exec_drawframe_notReady hl).symm.trans h
    exact .inl ⟨_, rfl⟩

/-- Each end of a DRAWTEXT: refused, or a whole line sent. -/
theorem exec_drawtext_cases {inv : Bool} {rsv : BitVec 3} {row : BitVec 4} {line : List Byte} {s t : State}
    (h : exec (.drawtext inv rsv row line) s = .next t) :
    (∃ e, t = refusedWith e s) ∨
      (line.length = 16 ∧ s.life = .ready ∧ TextOperandsValid rsv row line ∧
        t = endWithPortCheck (textSent inv row line s)) := by
  by_cases hn : line.length = 16
  · by_cases hl : s.life = .ready
    · by_cases hv : TextOperandsValid rsv row line
      · cases (exec_drawtext_sent hn hl hv).symm.trans h
        exact .inr ⟨hn, hl, hv, rfl⟩
      · cases (exec_drawtext_invalid hn hl hv).symm.trans h
        exact .inl ⟨_, rfl⟩
    · cases (exec_drawtext_notReady hn hl).symm.trans h
      exact .inl ⟨_, rfl⟩
  · cases (exec_drawtext_malformed hn).symm.trans h
    exact .inl ⟨_, rfl⟩

end Sys2Proof
end

section
/-! SUPPORT. The byte memories PB, FB and TX over a step: DRAWFRAME and DRAWTEXT load them once their operands are
accepted, a hardware reset empties them, and nothing else writes them. -/

namespace Sys2Proof

open Sys2Proof.Machine

/-- PB, FB and TX are equal. -/
structure SameMemories (s t : State) : Prop where
  pb : t.pb = s.pb
  fb : t.fb = s.fb
  tx : t.tx = s.tx

theorem MemoryInv.congr {s t : State} (h : MemoryInv s) (hst : SameMemories s t) : MemoryInv t := by
  obtain ⟨hpb, hfb, htx⟩ := hst
  obtain ⟨pw, fw, tw, pb, fb, tb⟩ := h
  constructor <;> simpa only [hpb, hfb, htx]

theorem sameMemories_refusedWith (k : ErrorKind) (s : State) : SameMemories s (refusedWith k s) := ⟨rfl, rfl, rfl⟩

theorem sameMemories_endWithPortCheck (s : State) : SameMemories s (endWithPortCheck s) :=
  ⟨by simp, by simp, by simp⟩

theorem sameMemories_sendByte (v : Byte) (s : State) : SameMemories s (sendByte v s) := ⟨by simp, by simp, by simp⟩

theorem sameMemories_powerDownCommand (s : State) : SameMemories s (powerDownCommand s) :=
  ⟨by simp, by simp, by simp⟩

theorem exec_powerup_sameMemories {s t : State} (h : exec .powerup s = .next t) : SameMemories s t := by
  by_cases hl : s.life = .uninitialized
  · rcases exec_powerup_cases hl with ⟨-, e⟩ | ⟨-, -, e⟩ | ⟨-, -, -, e⟩ | ⟨-, -, -, -, e⟩ | ⟨-, -, -, -, -, e⟩ |
      ⟨-, -, -, -, -, e⟩ <;> cases e.symm.trans h <;> constructor <;> simp
  · cases (exec_powerup_refused hl).symm.trans h
    exact sameMemories_refusedWith _ s

theorem exec_writebyte_sameMemories {data mode order : Byte} {s t : State}
    (h : exec (.writebyte data mode order) s = .next t) : SameMemories s t := by
  obtain ⟨k, rfl⟩ | ⟨o, -, -, -, rfl⟩ := exec_writebyte_cases h
  · exact sameMemories_refusedWith k s
  · constructor <;> simp

/-- A frame of 1024 bytes fits FB, and its pages fit PB. -/
theorem MemoryInv.frameSent {payload : List Byte} {s : State} (h : MemoryInv s) (hn : payload.length = 1024) :
    MemoryInv (frameSent payload s) where
  pb_wf := by simpa using wf_toPages h.pb_wf
  fb_wf := by simpa using Memory.wf_load h.fb_wf payload
  tx_wf := by simpa using h.tx_wf
  pb_bound := by simpa only [frameSent_pb] using bound_toPages h.pb_bound
  fb_bound := by simpa only [frameSent_fb] using Memory.bound_load hn.le h.fb_bound
  tx_bound := by simpa only [frameSent_tx] using h.tx_bound

/-- A line of 16 bytes fits TX. -/
theorem MemoryInv.textSent {line : List Byte} {s : State} (h : MemoryInv s) (hn : line.length = 16) (inv : Bool)
    (row : BitVec 4) : MemoryInv (textSent inv row line s) where
  pb_wf := by simpa using h.pb_wf
  fb_wf := by simpa using h.fb_wf
  tx_wf := by simpa using Memory.wf_load h.tx_wf line
  pb_bound := by simpa only [textSent_pb] using h.pb_bound
  fb_bound := by simpa only [textSent_fb] using h.fb_bound
  tx_bound := by simpa only [textSent_tx] using Memory.bound_load hn.le h.tx_bound

theorem MemoryInv.drawframe {w k : Byte} {payload : List Byte} {s t : State} (hs : MemoryInv s)
    (h : Machine.exec (.drawframe w k payload) s = .next t) : MemoryInv t := by
  obtain ⟨e, rfl⟩ | ⟨-, ⟨-, -, hn⟩, rfl⟩ := exec_drawframe_cases h
  · exact hs.congr (sameMemories_refusedWith e s)
  · exact (hs.frameSent hn).congr (sameMemories_endWithPortCheck _)

theorem MemoryInv.drawtext {inv : Bool} {rsv : BitVec 3} {row : BitVec 4} {line : List Byte} {s t : State}
    (hs : MemoryInv s) (h : Machine.exec (.drawtext inv rsv row line) s = .next t) : MemoryInv t := by
  obtain ⟨e, rfl⟩ | ⟨hn, -, -, rfl⟩ := exec_drawtext_cases h
  · exact hs.congr (sameMemories_refusedWith e s)
  · exact (hs.textSent hn inv row).congr (sameMemories_endWithPortCheck _)

/-- Every instruction keeps the memories inside their spaces and canonical. -/
theorem MemoryInv.exec {i : Instr} {s t : State} (hs : MemoryInv s) (h : Machine.exec i s = .next t) :
    MemoryInv t := by
  cases i with
  | powerup => exact hs.congr (exec_powerup_sameMemories h)
  | powerdown =>
    cases h
    exact (hs.congr (t := beginCommand s) ⟨rfl, rfl, rfl⟩).congr (sameMemories_powerDownCommand _)
  | drawframe w k payload => exact hs.drawframe h
  | drawtext inv rsv row line => exact hs.drawtext h
  | writebyte data mode order => exact hs.congr (exec_writebyte_sameMemories h)
  | setpage p => cases h; exact hs.congr (sameMemories_sendByte _ s)
  | setcollo => cases h; exact hs.congr (sameMemories_sendByte _ s)
  | setcolhi => cases h; exact hs.congr (sameMemories_sendByte _ s)

/-- Settles O51, by the cases of a step: it executes one instruction, empties the memories, or leaves them. -/
theorem stepKeepsMemories : Obligations.StepKeepsMemories := by
  intro s t hs h
  rcases step_cases h with ⟨rest, -, rfl⟩ | ⟨rest, -, rfl⟩ | ⟨-, rfl⟩ | ⟨_, rest, _, -, -, -, he⟩ |
    ⟨_, rest, _, -, -, -, rfl⟩ | ⟨rest, rfl⟩
  · exact memoryInv_reset.congr ⟨rfl, rfl, rfl⟩
  · exact hs.congr ⟨rfl, rfl, rfl⟩
  · exact (hs.congr (t := beginCommand { s with sdreq := false }) ⟨rfl, rfl, rfl⟩).congr
      (sameMemories_powerDownCommand _)
  · exact (hs.congr (t := withInbox rest s) ⟨rfl, rfl, rfl⟩).exec he
  · exact hs.congr ⟨rfl, rfl, rfl⟩
  · exact hs.congr ⟨rfl, rfl, rfl⟩

end Sys2Proof
end

section
/-! SUPPORT. The packet formats: the fields of the byte `f` of DRAWTEXT, and what the decoder makes of every packet,
once (`30_encoding.md` R61 to R66, R69, R71). -/

namespace Sys2Proof

open Sys2Proof.Machine

/-! ## The byte `inv ++ rsv ++ row` -/

theorem inv_textFlags (inv : Bool) (rsv : BitVec 3) (row : BitVec 4) :
    (textFlags inv rsv row).getLsbD 7 = inv := by
  rw [textFlags, BitVec.getLsbD_append, BitVec.getLsbD_append]
  simp

theorem rsv_textFlags (inv : Bool) (rsv : BitVec 3) (row : BitVec 4) :
    (textFlags inv rsv row).extractLsb' 4 3 = rsv := by
  rw [textFlags, BitVec.extractLsb'_append_eq_of_le (le_refl 4)]
  exact BitVec.extractLsb'_append_eq_right

theorem row_textFlags (inv : Bool) (rsv : BitVec 3) (row : BitVec 4) :
    (textFlags inv rsv row).extractLsb' 0 4 = row := BitVec.extractLsb'_append_eq_right

/-- The three fields are the whole byte. -/
theorem textFlags_fields (f : Byte) : textFlags (f.getLsbD 7) (f.extractLsb' 4 3) (f.extractLsb' 0 4) = f := by
  have hinv : BitVec.ofBool (f.getLsbD 7) = f.extractLsb' 7 1 := by
    ext i hi
    simp [show i = 0 by omega]
  rw [textFlags, hinv, BitVec.extractLsb'_append_extractLsb'_eq_extractLsb' (show 7 = 4 + 3 from rfl),
    BitVec.extractLsb'_append_extractLsb'_eq_extractLsb' (show 4 = 0 + 4 from rfl)]
  exact BitVec.extractLsb'_eq_self

/-! ## Decoding in each space -/

theorem decode_drawtext (f : Byte) {line : List Byte} (h : line.length = 16) :
    decode (0x04 :: f :: line) =
      .ok (.drawtext (f.getLsbD 7) (f.extractLsb' 4 3) (f.extractLsb' 0 4) line) := if_pos h

/-- The encoding of a well-formed host command decodes to it. -/
theorem decode_encode {i : Instr} (hwf : i.WellFormed) (hsp : i.space = .host) : decode (encode i) = .ok i := by
  cases i with
  | powerup => rfl
  | powerdown => rfl
  | drawframe w h payload => rfl
  | drawtext inv rsv row line =>
    rw [encode, decode_drawtext _ (beq_iff_eq.mp hwf), inv_textFlags, rsv_textFlags, row_textFlags]
  | writebyte data mode order => rfl
  | setpage p | setcollo | setcolhi => cases hsp

/-- The byte of a wire command is read as that command; SETPAGE's five fixed bits tell it from the other two. -/
theorem decodeWire_encode {i : Instr} (hsp : i.space = .wire) : decodeWire (encode i) = some i := by
  cases i with
  | setpage p =>
    have hop : (0b10110#5 ++ p).extractLsb' 3 5 = 0b10110 := BitVec.extractLsb'_append_eq_left
    have hp : (0b10110#5 ++ p).extractLsb' 0 3 = p := BitVec.extractLsb'_append_eq_right
    rw [encode, decodeWire, if_pos hop, hp]
  | setcollo => rfl
  | setcolhi => rfl
  | powerup | powerdown | drawframe w h payload | drawtext inv rsv row line | writebyte data mode order =>
    cases hsp

/-- A packet is the encoding of the well-formed host command it decodes to, or it breaks the length rule of its
opcode and is malformed. -/
theorem decode_cases (b : List Byte) :
    (∃ i, decode b = .ok i ∧ i.WellFormed ∧ i.space = .host ∧ encode i = b) ∨
      (packetWellFormed b = false ∧ ∃ e, decode b = .error e) := by
  rcases b with _ | ⟨op, rest⟩
  · exact .inr ⟨rfl, _, rfl⟩
  by_cases h1 : op = 0x01
  · subst h1
    rcases rest with _ | ⟨x, rest⟩
    · exact .inl ⟨.powerup, rfl, rfl, rfl, rfl⟩
    · exact .inr ⟨rfl, _, rfl⟩
  by_cases h2 : op = 0x02
  · subst h2
    rcases rest with _ | ⟨x, rest⟩
    · exact .inl ⟨.powerdown, rfl, rfl, rfl, rfl⟩
    · exact .inr ⟨rfl, _, rfl⟩
  by_cases h3 : op = 0x03
  · subst h3
    rcases rest with _ | ⟨w, _ | ⟨h, payload⟩⟩
    · exact .inr ⟨rfl, _, rfl⟩
    · exact .inr ⟨rfl, _, rfl⟩
    · exact .inl ⟨.drawframe w h payload, rfl, rfl, rfl, rfl⟩
  by_cases h4 : op = 0x04
  · subst h4
    rcases rest with _ | ⟨f, line⟩
    · exact .inr ⟨rfl, _, rfl⟩
    · by_cases hn : line.length = 16
      · exact .inl ⟨_, decode_drawtext f hn, beq_iff_eq.mpr hn, rfl, by rw [encode, textFlags_fields]⟩
      · exact .inr ⟨by simp [packetWellFormed, hn], _, if_neg hn⟩
  by_cases h5 : op = 0x05
  · subst h5
    rcases rest with _ | ⟨data, _ | ⟨mode, _ | ⟨order, _ | ⟨x, rest⟩⟩⟩⟩
    · exact .inr ⟨rfl, _, rfl⟩
    · exact .inr ⟨rfl, _, rfl⟩
    · exact .inr ⟨rfl, _, rfl⟩
    · exact .inl ⟨.writebyte data mode order, rfl, rfl, rfl, rfl⟩
    · exact .inr ⟨rfl, _, rfl⟩
  · exact .inr ⟨by simp only [packetWellFormed, h1, h2, h3, h4, h5, if_false],
      .unknownOpcode op, by simp only [decode, h1, h2, h3, h4, h5, if_false]⟩

/-- The encoding of a well-formed host command meets the length rule of its opcode. -/
theorem packetWellFormed_encode {i : Instr} (hwf : i.WellFormed) (hsp : i.space = .host) :
    packetWellFormed (encode i) = true := by
  cases i with
  | powerup => rfl
  | powerdown => rfl
  | drawframe w h payload => simp [encode, packetWellFormed]
  | drawtext inv rsv row line =>
    have hn : line.length = 16 := beq_iff_eq.mp hwf
    simp [encode, packetWellFormed, hn]
  | writebyte data mode order => rfl
  | setpage p | setcollo | setcolhi => cases hsp

theorem decode_of_not_packetWellFormed {b : List Byte} (h : packetWellFormed b = false) :
    ∃ e, decode b = .error e := by
  rcases decode_cases b with ⟨i, -, hwf, hsp, rfl⟩ | ⟨-, he⟩
  · cases (packetWellFormed_encode hwf hsp).symm.trans h
  · exact he

/-- Settles O1: a host command by the decoder, a wire command by the table's wire rows. -/
theorem decodeOfEncode : Obligations.DecodeOfEncode := by
  intro i hwf
  cases hsp : i.space with
  | host => rw [decodeIn, decode_encode hwf hsp]; rfl
  | wire => exact decodeWire_encode hsp

/-- Settles O2, by the two answers of the decoder. -/
theorem decodedPacketReencodes : Obligations.DecodedPacketReencodes := by
  intro b i h
  rcases decode_cases b with ⟨j, hd, hj⟩ | ⟨-, e, hd⟩ <;> cases hd.symm.trans h
  exact hj

/-- Settles O3: what decodes is an encoding, and an encoding has the length its format requires. -/
theorem packetDecodesIffWellFormed : Obligations.PacketDecodesIffWellFormed := by
  intro b
  rcases decode_cases b with ⟨i, hd, hwf, hsp, rfl⟩ | ⟨hf, e, hd⟩
  · rw [hd, packetWellFormed_encode hwf hsp]; rfl
  · rw [hd, hf]; rfl

/-- Settles O4, by evaluating the decoders. -/
theorem specWordsDecode : Obligations.SpecWordsDecode := ⟨rfl, rfl, rfl, rfl, rfl, rfl, rfl, rfl, rfl⟩

/-! ## A step that takes a packet -/

/-- Settles O5: with no request pending the packet is taken, and what decodes is executed. -/
theorem stepRunsDecodedPacket : Obligations.StepRunsDecodedPacket := fun _ _ _ _ hs hin hd =>
  (step_of_packet hs hin).trans (runPacket_ok hd _)

/-- Settles O6: such a packet does not decode, so no command starts. -/
theorem malformedPacketIsRejected : Obligations.MalformedPacketIsRejected := by
  intro s b rest hs hin hb
  obtain ⟨e, hd⟩ := decode_of_not_packetWellFormed hb
  rw [step_of_packet hs hin, runPacket_error hd]
  rfl

end Sys2Proof
end

section
/-! SUPPORT. The result word: its fields (`30_encoding.md` R70), and that every command ends by writing one. -/

namespace Sys2Proof

open Sys2Proof.Machine

/-! ## The fields, from the least significant up -/

theorem kind_resultWord (k : Option ErrorKind) (mask : BitVec 7) (s : State) :
    (resultWord k mask s).extractLsb' 0 4 = kindBits k := BitVec.extractLsb'_append_eq_right

theorem mask_resultWord (k : Option ErrorKind) (mask : BitVec 7) (s : State) :
    (resultWord k mask s).extractLsb' 4 7 = mask := by
  rw [resultWord, BitVec.extractLsb'_append_eq_of_le (by decide)]
  exact BitVec.extractLsb'_append_eq_right

theorem life_resultWord (k : Option ErrorKind) (mask : BitVec 7) (s : State) :
    (resultWord k mask s).extractLsb' 11 3 = s.life.code := by
  rw [resultWord, BitVec.extractLsb'_append_eq_of_le (by decide), BitVec.extractLsb'_append_eq_of_le (by decide)]
  exact BitVec.extractLsb'_append_eq_right

theorem acq_resultWord (k : Option ErrorKind) (mask : BitVec 7) (s : State) :
    (resultWord k mask s).extractLsb' 14 7 = s.acq := by
  rw [resultWord, BitVec.extractLsb'_append_eq_of_le (by decide), BitVec.extractLsb'_append_eq_of_le (by decide),
    BitVec.extractLsb'_append_eq_of_le (by decide)]
  exact BitVec.extractLsb'_append_eq_right

theorem inited_resultWord (k : Option ErrorKind) (mask : BitVec 7) (s : State) :
    (resultWord k mask s).getLsbD 21 = s.inited := by
  rw [resultWord, BitVec.getLsbD_append, BitVec.getLsbD_append, BitVec.getLsbD_append, BitVec.getLsbD_append,
    BitVec.getLsbD_append]
  simp

theorem zero_resultWord (k : Option ErrorKind) (mask : BitVec 7) (s : State) :
    (resultWord k mask s).extractLsb' 22 10 = 0#10 := by
  rw [resultWord, BitVec.extractLsb'_append_eq_of_le (by decide), BitVec.extractLsb'_append_eq_of_le (by decide),
    BitVec.extractLsb'_append_eq_of_le (by decide), BitVec.extractLsb'_append_eq_of_le (by decide)]
  exact BitVec.extractLsb'_append_eq_left

/-- Settles O13, field by field; the codes by the cases of the error kind and of LIFE. -/
theorem resultWordFields : Obligations.ResultWordFields := by
  intro k mask s
  refine ⟨?_, mask_resultWord k mask s, ?_, acq_resultWord k mask s, inited_resultWord k mask s,
    zero_resultWord k mask s⟩
  · rw [kind_resultWord]
    rcases k with _ | _ | _ | _ | _ <;> rfl
  · rw [life_resultWord]
    cases s.life <;> rfl

/-! ## LASTRES is a result word -/

theorem kindBits_mem (k : Option ErrorKind) : kindBits k ∈ [0x0#4, 0x1#4, 0x2#4, 0x4#4, 0x8#4] := by
  rcases k with _ | _ | _ | _ | _ <;> decide

theorem resultInv_of_resultWord {k : Option ErrorKind} {mask : BitVec 7} {s t : State}
    (h : t.lastres = resultWord k mask s) : ResultInv t := by
  rw [ResultInv, h, zero_resultWord, kind_resultWord]
  exact ⟨rfl, kindBits_mem k⟩

/-- The invariant looks at LASTRES only. -/
theorem ResultInv.congr {s t : State} (h : ResultInv s) (ht : t.lastres = s.lastres) : ResultInv t := by
  rw [ResultInv, ht]
  exact h

theorem resultInv_refusedWith (k : ErrorKind) (s : State) : ResultInv (refusedWith k s) :=
  resultInv_of_resultWord (k := some k) rfl

theorem resultInv_endWithPortCheck (s : State) : ResultInv (endWithPortCheck s) :=
  resultInv_of_resultWord (endWithPortCheck_lastres s)

theorem resultInv_powerDownCommand (s : State) : ResultInv (powerDownCommand s) := by
  obtain ⟨-, -, -, -, -, hres⟩ := powerDownCommand_spec s
  exact resultInv_of_resultWord hres

/-- At whichever step boundary POWERUP ends, it ends with a result word. -/
theorem resultInv_powerup {s t : State} (h : exec .powerup s = .next t) : ResultInv t := by
  by_cases hl : s.life = .uninitialized
  · rcases exec_powerup_cases hl with ⟨-, e⟩ | ⟨-, -, e⟩ | ⟨-, -, -, e⟩ | ⟨-, -, -, -, e⟩ |
      ⟨-, -, -, -, -, e⟩ | ⟨-, -, -, -, -, e⟩ <;> cases e.symm.trans h
    all_goals exact resultInv_of_resultWord (finish_lastres _ _ _)
  · cases (exec_powerup_refused hl).symm.trans h
    exact resultInv_refusedWith _ s

/-- A host command writes LASTRES, a wire command leaves it. -/
theorem ResultInv.exec {i : Instr} {s t : State} (hs : ResultInv s) (h : Machine.exec i s = .next t) :
    ResultInv t := by
  cases i with
  | powerup => exact resultInv_powerup h
  | powerdown => cases h; exact resultInv_powerDownCommand _
  | drawframe w k payload =>
    obtain ⟨e, rfl⟩ | ⟨-, -, rfl⟩ := exec_drawframe_cases h
    · exact resultInv_refusedWith e s
    · exact resultInv_endWithPortCheck _
  | drawtext inv rsv row line =>
    obtain ⟨e, rfl⟩ | ⟨-, -, -, rfl⟩ := exec_drawtext_cases h
    · exact resultInv_refusedWith e s
    · exact resultInv_endWithPortCheck _
  | writebyte data mode order =>
    obtain ⟨e, rfl⟩ | ⟨o, -, -, -, rfl⟩ := exec_writebyte_cases h
    · exact resultInv_refusedWith e s
    · exact resultInv_endWithPortCheck _
  | setpage p => cases h; exact hs.congr (sendByte_lastres _ s)
  | setcollo => cases h; exact hs.congr (sendByte_lastres _ s)
  | setcolhi => cases h; exact hs.congr (sendByte_lastres _ s)

/-- Settles O52, by the cases of a step: LASTRES is a command's result word, the one it was, or 0. -/
theorem stepKeepsResultWord : Obligations.StepKeepsResultWord := by
  intro s t hs h
  rcases step_cases h with ⟨rest, -, rfl⟩ | ⟨rest, -, rfl⟩ | ⟨-, rfl⟩ | ⟨_, rest, _, -, -, -, he⟩ |
    ⟨_, rest, _, -, -, -, rfl⟩ | ⟨rest, rfl⟩
  · exact resultInv_reset.congr rfl
  · exact hs.congr rfl
  · exact resultInv_powerDownCommand _
  · exact (hs.congr (withInbox_lastres rest s)).exec he
  · exact resultInv_of_resultWord (raise_lastres _ _ _)
  · exact hs.congr rfl

end Sys2Proof
end

section
/-! SUPPORT. What the encoding says of two meanings: a wire command is its one byte sent (`30_encoding.md` R71), and
DRAWTEXT refuses what its format or its operands do not allow (R65, `60_exceptions.md` R127). -/

namespace Sys2Proof

open Sys2Proof.Machine

/-- Everything the sending of one session byte does to the port and to WIRE. -/
theorem sendByte_sends (v : Byte) (s : State) :
    (sendByte v s).events = s.events ++ answered s 0 (byteEvents v s.params.cfgMode s.params.cfgOrder) ∧
      (sendByte v s).lvl =
        replayLevels s.lvl (answered s 0 (byteEvents v s.params.cfgMode s.params.cfgOrder)) ∧
      (sendByte v s).wireLog = s.wireLog ++ [⟨s.lvl.dc, v, s.params.cfgMode, s.params.cfgOrder⟩] ∧
      ∀ r, roleBit (sendByte v s).pfail r = (roleBit s.pfail r ||
        failedOn r (answered s 0 (byteEvents v s.params.cfgMode s.params.cfgOrder))) := by
  have h := issued_sendByte v s
  exact ⟨h.events, h.lvl, wireLog_sendByte v s, h.pfail⟩

/-- Settles O43: each of the three is `sendByte` of its byte. -/
theorem wireCommandsSendOneByte : Obligations.WireCommandsSendOneByte := by
  intro i v s hi
  refine ⟨sendByte v s, ?_, sendByte_sends v s⟩
  rcases hi with ⟨p, rfl, rfl⟩ | ⟨rfl, rfl⟩ | ⟨rfl, rfl⟩
  · rfl
  · rfl
  · rfl

/-- Settles O38, by the refused ends of DRAWTEXT in their order. -/
theorem drawTextRefusals : Obligations.DrawTextRefusals := fun _ _ _ _ _ =>
  ⟨exec_drawtext_malformed, exec_drawtext_notReady, exec_drawtext_invalid⟩

end Sys2Proof
end

section
/-! SUPPORT. Held pins: events that release nothing and touch held pins only keep TRACE touching held pins only, and so
does each guarded primitive of POWERDOWN (`40_spi_transport.md` R80, R88; `41_sh1106_controller.md` R91, R101). -/

namespace Sys2Proof

open Sys2Proof.Machine

/-! ## Entries on held pins -/

/-- The event writes, directs or releases pin r. -/
def Touches (e : PortEvent) (r : Role) : Prop :=
  (∃ v, e = .write r v) ∨ (∃ d, e = .setDirection r d) ∨ e = .release r

theorem Touches.role? {e : PortEvent} {r : Role} (h : Touches e r) : e.role? = some r := by
  rcases h with ⟨v, rfl⟩ | ⟨d, rfl⟩ | rfl <;> rfl

theorem touchesHeldOnly_cons (x : Entry) (older : List Entry) :
    TouchesHeldOnly (x :: older) ↔ TouchesHeldOnly older ∧
      ∀ r, Touches x.event r → roleBit (older.foldr heldAfter 0#7) r = true := Iff.rfl

/-- A pin stays held until it is released. -/
theorem roleBit_heldAfter {x : Entry} {acq : BitVec 7} {r : Role} (h : roleBit acq r = true)
    (hx : x.event ≠ .release r) : roleBit (heldAfter x acq) r = true := by
  unfold heldAfter
  split
  case h_1 q _ =>
    split
    · simp [roleBit_setRoleBit, h]
    · exact h
  case h_2 q he =>
    have hq : r ≠ q := fun hq => hx (hq ▸ he)
    simp [roleBit_clearRoleBit, h, hq]
  all_goals exact h

theorem roleBit_foldr_heldAfter {es : List Entry} {acq : BitVec 7} {r : Role} (h : roleBit acq r = true)
    (hes : ∀ x ∈ es, x.event ≠ .release r) : roleBit (es.foldr heldAfter acq) r = true := by
  induction es with
  | nil => exact h
  | cons x es ih =>
    rw [List.forall_mem_cons] at hes
    exact roleBit_heldAfter (ih hes.2) hes.1

/-- Entries put on top of TRACE that touch pins held before them, and release none. -/
theorem touchesHeldOnly_append {new old : List Entry} (hold : TouchesHeldOnly old)
    (hheld : ∀ x ∈ new, ∀ r, Touches x.event r → roleBit (old.foldr heldAfter 0#7) r = true)
    (hrel : ∀ x ∈ new, ∀ r, x.event ≠ .release r) : TouchesHeldOnly (new ++ old) := by
  induction new with
  | nil => exact hold
  | cons x new ih =>
    rw [List.forall_mem_cons] at hheld hrel
    rw [List.cons_append, touchesHeldOnly_cons, List.foldr_append]
    exact ⟨ih hheld.2 hrel.2, fun r hr => roleBit_foldr_heldAfter (hheld.1 r hr) fun y hy => hrel.2 y hy r⟩

theorem event_mem_of_mem_answered {s : State} {k : Nat} {es : List PortEvent} {x : Entry}
    (h : x ∈ answered s k es) : x.event ∈ es := by
  have hmap := List.mem_map_of_mem (f := Entry.event) h
  rwa [answered_map_event] at hmap

/-! ## States that have touched held pins only -/

/-- TRACE gives ACQ, and every entry of it touches a pin held at its moment. -/
structure HeldTrace (s : State) : Prop where
  follows : FollowsTrace s
  touches : TouchesHeldOnly s.trace

theorem FollowsTrace.acq_eq_foldr {s : State} (h : FollowsTrace s) : s.acq = s.trace.foldr heldAfter 0#7 := by
  rw [h.acq, State.events, List.foldl_reverse]

/-- Issuing events that touch held pins only and release none. -/
theorem HeldTrace.touches_issued {es : List PortEvent} {s t : State} (h : HeldTrace s) (hi : Issued es s t)
    (hheld : ∀ e ∈ es, ∀ r, Touches e r → roleBit s.acq r = true) (hrel : ∀ e ∈ es, ∀ r, e ≠ .release r) :
    TouchesHeldOnly t.trace := by
  have hmem : ∀ x ∈ (answered s 0 es).reverse, x.event ∈ es := fun x hx =>
    event_mem_of_mem_answered (List.mem_reverse.mp hx)
  rw [hi.trace]
  refine touchesHeldOnly_append h.touches (fun x hx r hr => ?_) fun x hx => hrel _ (hmem x hx)
  rw [← h.follows.acq_eq_foldr]
  exact hheld _ (hmem x hx) r hr

/-- With every pin held, any writes, directions and delays. -/
theorem HeldTrace.touches_allHeld {es : List PortEvent} {s t : State} (h : HeldTrace s) (hi : Issued es s t)
    (hacq : s.acq = 0x7F#7) (hrel : ∀ e ∈ es, ∀ r, e ≠ .release r) : TouchesHeldOnly t.trace :=
  h.touches_issued hi (fun _ _ r _ => by rw [hacq, roleBit_all]) hrel

theorem HeldTrace.congr {s t : State} (h : HeldTrace s) (hst : SamePort s t) : HeldTrace t :=
  ⟨h.follows.congr hst, by rw [hst.1]; exact h.touches⟩

theorem HeldTrace.driveLowIfHeld {s : State} (h : HeldTrace s) (r : Role) :
    HeldTrace (Machine.driveLowIfHeld r s) := by
  unfold Machine.driveLowIfHeld
  split
  next hr =>
    refine ⟨portClosed_followsTrace.pwrite r false s h.follows, h.touches_issued (issued_pwrite r false s) ?_ ?_⟩
    · simp only [List.mem_singleton, forall_eq]
      intro q hq
      cases hq.role?
      exact hr
    · simp
  next => exact h

theorem HeldTrace.releaseIfHeld {s : State} (h : HeldTrace s) (r : Role) :
    HeldTrace (Machine.releaseIfHeld r s) := by
  unfold Machine.releaseIfHeld
  split
  next hr =>
    refine ⟨portClosed_followsTrace.release r s h.follows, ?_⟩
    have htrace : (releasePin r s).trace = ⟨.release r, some (s.answerAt 0)⟩ :: s.trace :=
      (issued_releasePin r s).trace
    rw [htrace, touchesHeldOnly_cons, ← h.follows.acq_eq_foldr]
    refine ⟨h.touches, fun q hq => ?_⟩
    cases hq.role?
    exact hr
  next => exact h

/-! ## The events of the commands release nothing -/

theorem exists_write_of_mem_byteEvents {v : Byte} {m : SpiMode} {o : BitOrder} {e : PortEvent}
    (h : e ∈ byteEvents v m o) : ∃ b, e = .write .mosi b ∨ e = .write .clk b := by
  simp only [byteEvents, slotEvents, List.mem_append, List.mem_flatMap, List.mem_cons, List.not_mem_nil,
    or_false] at h
  rcases h with ((rfl | h) | ⟨b, -, rfl | rfl | rfl⟩) | rfl
  · exact ⟨_, .inr rfl⟩
  · split at h
    · exact ⟨_, .inr (List.mem_singleton.mp h)⟩
    · cases h
  · exact ⟨_, .inl rfl⟩
  · exact ⟨_, .inr rfl⟩
  · exact ⟨_, .inr rfl⟩
  · exact ⟨_, .inr rfl⟩

theorem not_release_of_mem_byteEvents {v : Byte} {m : SpiMode} {o : BitOrder} {e : PortEvent}
    (h : e ∈ byteEvents v m o) (r : Role) : e ≠ .release r := by
  obtain ⟨b, rfl | rfl⟩ := exists_write_of_mem_byteEvents h <;> simp

theorem not_release_of_mem_sessionBytes {p : Params} {bytes : List Byte} {e : PortEvent}
    (h : e ∈ bytes.flatMap (sessionByteEvents p)) (r : Role) : e ≠ .release r := by
  obtain ⟨v, -, hv⟩ := List.mem_flatMap.mp h
  exact not_release_of_mem_byteEvents hv r

theorem not_release_of_mem_pageEvents {p : Params} {pg : BitVec 3} {data : List Byte} {e : PortEvent}
    (h : e ∈ pageEvents p pg data) (r : Role) : e ≠ .release r := by
  rw [pageEvents, preambleEvents, List.mem_append, List.mem_append, List.mem_append, List.mem_singleton,
    List.mem_singleton] at h
  rcases h with ((rfl | h) | rfl) | h
  · simp
  · exact not_release_of_mem_sessionBytes h r
  · simp
  · exact not_release_of_mem_sessionBytes h r

theorem not_release_of_mem_frameEvents {p : Params} {payload : List Byte} {e : PortEvent}
    (h : e ∈ frameEvents p payload) (r : Role) : e ≠ .release r := by
  obtain ⟨pg, -, hpg⟩ := List.mem_flatMap.mp h
  exact not_release_of_mem_pageEvents hpg r

/-! ## Every command touches held pins only -/

theorem HeldTrace.powerDownCommand {s : State} (h : HeldTrace s) :
    TouchesHeldOnly (Machine.powerDownCommand s).trace := by
  have hdriven : HeldTrace (forRoles powerDownLines Machine.driveLowIfHeld s) :=
    forRoles_keeps (P := HeldTrace) (fun r _ ht => ht.driveLowIfHeld r) h
  have hreleased : HeldTrace (forRoles roleOrder Machine.releaseIfHeld
      (forRoles powerDownLines Machine.driveLowIfHeld s)) :=
    forRoles_keeps (P := HeldTrace) (fun r _ ht => ht.releaseIfHeld r) hdriven
  exact hreleased.touches

theorem HeldTrace.writebyte {data mode order : Byte} {s t : State} (hs : HeldTrace s)
    (h : Machine.exec (.writebyte data mode order) s = .next t) : TouchesHeldOnly t.trace := by
  obtain ⟨k, rfl⟩ | ⟨o, -, -, ⟨hclk, hmosi, -⟩, rfl⟩ := exec_writebyte_cases h
  · exact hs.touches
  · rw [endWithPortCheck_trace]
    have hb : HeldTrace (beginCommand s) := hs.congr samePort_rfl
    refine hb.touches_issued (issued_writeByte ..) (fun e he r hr => ?_) fun e => not_release_of_mem_byteEvents
    obtain ⟨b, rfl | rfl⟩ := exists_write_of_mem_byteEvents he
    · cases hr.role?
      exact hmosi
    · cases hr.role?
      exact hclk

theorem HeldTrace.drawframe {w k : Byte} {payload : List Byte} {s t : State} (hs : HeldTrace s)
    (hlife : LifecycleInv s) (h : Machine.exec (.drawframe w k payload) s = .next t) : TouchesHeldOnly t.trace := by
  obtain ⟨e, rfl⟩ | ⟨hready, ⟨-, -, hn⟩, rfl⟩ := exec_drawframe_cases h
  · exact hs.touches
  · rw [endWithPortCheck_trace]
    have hb : HeldTrace (beginCommand s) := hs.congr samePort_rfl
    exact hb.touches_allHeld (issued_frameSent hn s) (hlife.acquired (.inr (.inr hready)))
      fun e => not_release_of_mem_frameEvents

theorem HeldTrace.drawtext {inv : Bool} {rsv : BitVec 3} {row : BitVec 4} {line : List Byte} {s t : State}
    (hs : HeldTrace s) (hlife : LifecycleInv s) (h : Machine.exec (.drawtext inv rsv row line) s = .next t) :
    TouchesHeldOnly t.trace := by
  obtain ⟨e, rfl⟩ | ⟨hn, hready, -, rfl⟩ := exec_drawtext_cases h
  · exact hs.touches
  · rw [endWithPortCheck_trace]
    have hb : HeldTrace (beginCommand s) := hs.congr samePort_rfl
    exact hb.touches_allHeld (issued_textSent hn inv row s) (hlife.acquired (.inr (.inr hready)))
      fun e => not_release_of_mem_pageEvents

/-- The acquisitions touch no pin. -/
theorem HeldTrace.stageAcquire {s : State} (h : HeldTrace s) : HeldTrace (stageAcquire s) := by
  have hb : HeldTrace (beginCommand s) := h.congr samePort_rfl
  obtain ⟨hfollows, -⟩ := portClosed_followsTrace.stages h.follows
  refine ⟨hfollows, hb.touches_issued (issued_stageAcquire s) (fun e he r hr => ?_) (by simp [acquireEvents])⟩
  fin_cases he <;> rcases hr with ⟨v, hr⟩ | ⟨d, hr⟩ | hr <;> cases hr

/-- Once all pins are held, the rest of the chain may touch them all. -/
theorem HeldTrace.stages_of_allHeld {s : State} (h : HeldTrace s) (hacq : (Sys2Proof.stageAcquire s).acq = 0x7F#7) :
    HeldTrace (stageDirect s) ∧ HeldTrace (stageAssert s) ∧ HeldTrace (stageReset s) ∧ HeldTrace (stageInit s) := by
  obtain ⟨-, f1, f2, f3, f4⟩ := portClosed_followsTrace.stages h.follows
  have h0 := h.stageAcquire
  have i1 : Issued directEvents (Sys2Proof.stageAcquire s) (stageDirect s) := by
    unfold stageDirect; exact (issued_directAll _).of_life
  have h1 : HeldTrace (stageDirect s) := ⟨f1, h0.touches_allHeld i1 hacq (by simp [directEvents])⟩
  have i2 : Issued (assertEvents (stageDirect s).params) (stageDirect s) (stageAssert s) := by
    unfold stageAssert; exact issued_assertLines _
  have h2 : HeldTrace (stageAssert s) := ⟨f2, h1.touches_allHeld i2 (by simpa) (by simp [assertEvents])⟩
  have i3 : Issued resetEvents (stageAssert s) (stageReset s) := by
    unfold stageReset; exact issued_displayReset _
  have h3 : HeldTrace (stageReset s) := ⟨f3, h2.touches_allHeld i3 (by simpa) (by simp [resetEvents])⟩
  have i4 : Issued (initEvents (stageReset s).params) (stageReset s) (stageInit s) := by
    unfold stageInit
    exact Issued.of_life (l := .reset) (issued_initializeDisplay { stageReset s with life := .reset })
  exact ⟨h1, h2, h3, f4, h3.touches_allHeld i4 (by simpa) fun e => not_release_of_mem_sessionBytes⟩

theorem HeldTrace.powerup {s t : State} (hs : HeldTrace s) (h : Machine.exec .powerup s = .next t) :
    TouchesHeldOnly t.trace := by
  by_cases hl : s.life = .uninitialized
  · by_cases h0 : (Sys2Proof.stageAcquire s).pfail = 0#7
    · obtain ⟨h1, h2, h3, h4⟩ := hs.stages_of_allHeld (stageAcquire_acq_of_pfail h0)
      rcases exec_powerup_cases hl with ⟨hf, -⟩ | ⟨-, -, e⟩ | ⟨-, -, -, e⟩ | ⟨-, -, -, -, e⟩ |
        ⟨-, -, -, -, -, e⟩ | ⟨-, -, -, -, -, e⟩
      · exact absurd h0 hf
      · cases e.symm.trans h; exact h1.touches
      · cases e.symm.trans h; exact h2.touches
      · cases e.symm.trans h; exact h3.touches
      · cases e.symm.trans h; exact h4.touches
      · cases e.symm.trans h; exact h4.touches
    · rcases exec_powerup_cases hl with ⟨-, e⟩ | ⟨h0', -⟩ | ⟨h0', -⟩ | ⟨h0', -⟩ | ⟨h0', -⟩ | ⟨h0', -⟩
      · cases e.symm.trans h; exact hs.stageAcquire.touches
      all_goals exact absurd h0' h0
  · cases (exec_powerup_refused hl).symm.trans h
    exact hs.touches

/-- Every command of the host. A wire command run alone would write CLK and MOSI without an admission test, but no
packet decodes to one. -/
theorem HeldTrace.exec {i : Instr} {s t : State} (hs : HeldTrace s) (hlife : LifecycleInv s)
    (hsp : i.space = .host) (h : Machine.exec i s = .next t) : TouchesHeldOnly t.trace := by
  cases i with
  | powerup => exact hs.powerup h
  | powerdown => cases h; exact (hs.congr (t := beginCommand s) samePort_rfl).powerDownCommand
  | drawframe w k payload => exact hs.drawframe hlife h
  | drawtext inv rsv row line => exact hs.drawtext hlife h
  | writebyte data mode order => exact hs.writebyte h
  | setpage p | setcollo | setcolhi => cases hsp

/-- Settles O49, by the cases of a step: what a packet decodes to is a command of the host, the shutdown request runs
POWERDOWN's body, a hardware reset empties TRACE, and nothing else issues an event. -/
theorem stepTouchesHeldPinsOnly : Obligations.StepTouchesHeldPinsOnly := by
  intro s t hlife hfollows htouches h
  have hs : HeldTrace s := ⟨hfollows, htouches⟩
  rcases step_cases h with ⟨rest, -, rfl⟩ | ⟨rest, -, rfl⟩ | ⟨-, rfl⟩ | ⟨_, rest, _, -, -, hd, he⟩ |
    ⟨_, rest, _, -, -, -, rfl⟩ | ⟨rest, rfl⟩
  · exact touchesHeldOnly_reset
  · exact htouches
  · exact (hs.congr (t := beginCommand { s with sdreq := false }) samePort_rfl).powerDownCommand
  · obtain ⟨-, hsp, -⟩ := decodedPacketReencodes _ _ hd
    exact (hs.congr (t := withInbox rest s) samePort_rfl).exec (hlife.congr rfl rfl rfl rfl) hsp he
  · exact htouches
  · exact htouches

end Sys2Proof
end

section
/-! SUPPORT. WRITEBYTE: its ends and what it leaves, the levels it writes, the levels it ends at, and what a receiver
samples of them (`40_spi_transport.md` R82 to R89). -/

namespace Sys2Proof

open Sys2Proof.Machine

/-! ## Valid operands -/

/-- The operand forms of a BitOrder (`30_encoding.md` R68). -/
theorem decodeOrder_of_eq {order : Byte} {o : BitOrder}
    (h : order = 0 ∧ o = .msbFirst ∨ order = 1 ∧ o = .lsbFirst) : decodeOrder order = some o := by
  obtain ⟨rfl, rfl⟩ | ⟨rfl, rfl⟩ := h
  · rfl
  · rfl

/-- The values of an operand the check lets through (`40_spi_transport.md` R81). -/
theorem order_eq_of_le {order : Byte} (h : order.toNat ≤ 1) : order = 0 ∨ order = 1 := by bv_omega

theorem exists_order_of_le {order : Byte} (h : order.toNat ≤ 1) :
    ∃ o : BitOrder, order = 0 ∧ o = .msbFirst ∨ order = 1 ∧ o = .lsbFirst := by
  rcases order_eq_of_le h with h0 | h1
  · exact ⟨.msbFirst, .inl ⟨h0, rfl⟩⟩
  · exact ⟨.lsbFirst, .inr ⟨h1, rfl⟩⟩

theorem mode_eq_of_le {mode : Byte} (h : mode.toNat ≤ 3) : mode = 0 ∨ mode = 1 ∨ mode = 2 ∨ mode = 3 := by bv_omega

@[simp] theorem modePol_setWidth (mode : Byte) : modePol (mode.setWidth 2) = mode.getLsbD 1 := by simp [modePol]

/-- Modes 0 and 2 make the pre-flip, one event more (`40_spi_transport.md` R84). -/
theorem eventsPerByte_setWidth {mode : Byte} (h : mode.toNat ≤ 3) :
    eventsPerByte (mode.setWidth 2) = if mode = 1 ∨ mode = 3 then 26 else 27 := by
  rcases mode_eq_of_le h with rfl | rfl | rfl | rfl <;> rfl

/-! ## Its ends -/

/-- Settles O15: the lines are asked for first, then both operands. -/
theorem writeByteRefusals : Obligations.WriteByteRefusals := by
  intro data mode order s
  refine ⟨exec_writebyte_notHeld, fun hl hbad => exec_writebyte_invalid hl ?_⟩
  exact hbad.imp decodeMode_of_gt decodeOrder_of_gt

/-- Settles O14, from what `writeByte` issues, with PFAIL clear before it. -/
theorem writeByteSendsItsByte : Obligations.WriteByteSendsItsByte := by
  intro data mode order o s hl hm ho
  obtain ⟨hevents, hlvl, hpfail⟩ := (issued_writeByte data (mode.setWidth 2) o (beginCommand s)).command
  refine ⟨_, exec_writebyte hl hm (decodeOrder_of_eq ho), ?_, ?_, ?_, ?_, ?_, ?_, ?_⟩
  · simpa [State.events] using hevents
  · simpa using hlvl
  · simp [State.wireLog]
  · simp
  · simp
  · simpa using hpfail
  · simpa using endWithPortCheck_lastres (writeByte data (mode.setWidth 2) o (beginCommand s))

/-- Settles O20, by the two ends of WRITEBYTE. -/
theorem writeByteFrame : Obligations.WriteByteFrame := by
  intro data mode order s t h
  obtain ⟨k, rfl⟩ | ⟨o, -, -, -, rfl⟩ := exec_writebyte_cases h
  · simp [refusedWith]
  · have hlvl : ∀ r, r ≠ .clk → r ≠ .mosi → (writeByte data (mode.setWidth 2) o (beginCommand s)).lvl.get r =
        s.lvl.get r := fun r hc hm => writeByte_lvl_get hc hm _ _ _ _
    simpa using hlvl

/-! ## The levels it writes -/

/-- The level the event writes to pin r. -/
def levelWritten (r : Role) (e : PortEvent) : Option Bool :=
  match e with
  | .write q v => if q = r then some v else none
  | _ => none

/-- The levels of the entries do not depend on the answers. -/
theorem writtenLevels_answered (r : Role) (s : State) (k : Nat) (es : List PortEvent) :
    writtenLevels r (answered s k es) = es.filterMap (levelWritten r) := by
  conv_rhs => rw [← answered_map_event s k es, List.filterMap_map]
  rfl

theorem filterMap_mosi_byteEvents (v : Byte) (m : SpiMode) (o : BitOrder) :
    (byteEvents v m o).filterMap (levelWritten .mosi) = bitsInOrder o v := by
  have hslots : ∀ bs : List Bool, (bs.flatMap (slotEvents m)).filterMap (levelWritten .mosi) = bs := fun bs => by
    induction bs with
    | nil => rfl
    | cons b bs ih => rw [List.flatMap_cons, List.filterMap_append, ih]; rfl
  rw [byteEvents, List.filterMap_append, List.filterMap_append, List.filterMap_append, hslots]
  split <;> simp [levelWritten]

theorem length_bitsInOrder (o : BitOrder) (v : Byte) : (bitsInOrder o v).length = 8 := by cases o <;> rfl

/-- The clock levels of a byte, which are the same for every byte (`40_spi_transport.md` R84). -/
theorem filterMap_clk_byteEvents (v : Byte) (m : SpiMode) (o : BitOrder) :
    (byteEvents v m o).filterMap (levelWritten .clk) =
      [modePol m] ++ (if preflips m then [!(modePol m)] else []) ++
        (List.replicate 8 [!(slotLevel m), slotLevel m]).flatten ++ [modePol m] := by
  have hslots : ∀ bs : List Bool, (bs.flatMap (slotEvents m)).filterMap (levelWritten .clk) =
      (List.replicate bs.length [!(slotLevel m), slotLevel m]).flatten := fun bs => by
    induction bs with
    | nil => rfl
    | cons b bs ih =>
      rw [List.flatMap_cons, List.filterMap_append, ih, List.length_cons, List.replicate_succ, List.flatten_cons]
      rfl
  rw [byteEvents, List.filterMap_append, List.filterMap_append, List.filterMap_append, hslots, length_bitsInOrder]
  split <;> rfl

theorem shiftOut_msbFirst (sr : Byte) : shiftOut .msbFirst sr = sr.extractLsb' 0 7 ++ 0#1 :=
  BitVec.shiftLeft_eq_concat_of_lt (by decide)

theorem shiftOut_lsbFirst (sr : Byte) : shiftOut .lsbFirst sr = 0#1 ++ sr.extractLsb' 1 7 :=
  BitVec.ushiftRight_eq_extractLsb'_of_lt (by decide)

/-- Settles O16: the data levels are the bits in order, and the clock levels are those of any byte. -/
theorem dataBitsInOrder : Obligations.DataBitsInOrder := by
  refine ⟨fun sr => ⟨shiftOut_msbFirst sr, shiftOut_lsbFirst sr⟩, ?_⟩
  intro data other mode order s hl hm hle
  obtain ⟨o, ho⟩ := exists_order_of_le hle
  obtain ⟨t, he, hev, -, -, hsr, -⟩ := writeByteSendsItsByte data mode order o s hl hm ho
  obtain ⟨t', he', hev', -⟩ := writeByteSendsItsByte other mode order o s hl hm ho
  refine ⟨t, t', _, _, he, hev, he', hev', ?_, hsr, ?_, ?_, ?_⟩ <;>
    simp only [writtenLevels_answered, filterMap_mosi_byteEvents, filterMap_clk_byteEvents]
  · obtain ⟨rfl, rfl⟩ | ⟨rfl, rfl⟩ := ho <;> rfl
  · rintro rfl; cases o <;> rfl
  · rintro rfl; cases o <;> rfl

/-- Settles O17, from the two lists of levels; in each mode they are concrete. -/
theorem byteEventAndTransitionCounts : Obligations.ByteEventAndTransitionCounts := by
  intro data mode order s hl hm hle
  obtain ⟨o, ho⟩ := exists_order_of_le hle
  obtain ⟨t, he, hev, -⟩ := writeByteSendsItsByte data mode order o s hl hm ho
  refine ⟨t, _, he, hev, ?_, ?_, ?_, ?_⟩
  · rw [← List.length_map (f := Entry.event), answered_map_event, length_byteEvents, eventsPerByte_setWidth hm]
  · exact fun x hx => exists_write_of_mem_byteEvents (event_mem_of_mem_answered hx)
  · rw [writtenLevels_answered, filterMap_mosi_byteEvents, length_bitsInOrder]
  · rw [writtenLevels_answered, filterMap_clk_byteEvents]
    rcases mode_eq_of_le hm with rfl | rfl | rfl | rfl <;> exact ⟨rfl, rfl, rfl⟩

/-! ## The levels it ends at -/

/-- The bit sent last. -/
def lastBit (o : BitOrder) (v : Byte) : Bool :=
  match o with
  | .msbFirst => v.getLsbD 0
  | .lsbFirst => v.getLsbD 7

theorem lastBit_eq {order : Byte} {o : BitOrder} (h : order = 0 ∧ o = .msbFirst ∨ order = 1 ∧ o = .lsbFirst)
    (v : Byte) : lastBit o v = if order = 0 then v.getLsbD 0 else v.getLsbD 7 := by
  obtain ⟨rfl, rfl⟩ | ⟨rfl, rfl⟩ := h <;> rfl

theorem bitsInOrder_eq_append (o : BitOrder) (v : Byte) : ∃ bs, bitsInOrder o v = bs ++ [lastBit o v] := by
  cases o with
  | msbFirst => exact ⟨_, (List.dropLast_append_getLast (List.cons_ne_nil _ _)).symm⟩
  | lsbFirst => exact ⟨_, (List.dropLast_append_getLast (List.cons_ne_nil _ _)).symm⟩

/-- After the last write of a pin, which did not fail, the pin has the level written. -/
theorem replayLevels_get_of_write {r : Role} {v : Bool} {s : State} {k : Nat} {pre post : List PortEvent}
    (hpost : ∀ e ∈ post, e.role? ≠ some r) (hok : failedOn r (answered s k (pre ++ .write r v :: post)) = false)
    (l : Pins Level) :
    (replayLevels l (answered s k (pre ++ .write r v :: post))).get r = Level.ofBool v := by
  rw [answered_append, answered_cons_call rfl] at hok ⊢
  rw [replayLevels_append]
  cases ha : s.answerAt (k + calls pre) with
  | fail =>
    rw [ha] at hok
    simp [failedOn, PortEvent.role?] at hok
  | ok =>
    have hrest : ∀ x ∈ answered s (k + calls pre + 1) post, x.event.role? ≠ some r := fun x hx =>
      hpost _ (event_mem_of_mem_answered hx)
    exact (replayLevels_get_of_ne hrest _).trans (Pins.get_set_self ..)

/-- The last event of a byte drives the clock to its idle level. -/
theorem byteEvents_eq_append_clk (v : Byte) (m : SpiMode) (o : BitOrder) :
    ∃ pre, byteEvents v m o = pre ++ .write .clk (modePol m) :: [] := ⟨_, rfl⟩

/-- Three clock writes follow the last data write. -/
theorem byteEvents_eq_append_mosi (v : Byte) (m : SpiMode) (o : BitOrder) :
    ∃ pre, byteEvents v m o = pre ++ .write .mosi (lastBit o v) ::
      [.write .clk (!(slotLevel m)), .write .clk (slotLevel m), .write .clk (modePol m)] := by
  obtain ⟨bs, hbs⟩ := bitsInOrder_eq_append o v
  refine ⟨[.write .clk (modePol m)] ++ (if preflips m then [.write .clk (!(modePol m))] else []) ++
    bs.flatMap (slotEvents m), ?_⟩
  simp [byteEvents, hbs, slotEvents]

/-- Settles O18: after the last clock write no clock write follows, and after the last data write no data write. -/
theorem clockEndsAtIdleLevel : Obligations.ClockEndsAtIdleLevel := by
  intro data mode order s hl hm hle
  obtain ⟨o, ho⟩ := exists_order_of_le hle
  obtain ⟨t, he, hev, hlvl, -, -, hclkv, -⟩ := writeByteSendsItsByte data mode order o s hl hm ho
  refine ⟨t, _, he, hev, hclkv.trans (modePol_setWidth mode), fun hok => ?_, fun hok => ?_⟩
  · obtain ⟨pre, hes⟩ := byteEvents_eq_append_clk data (mode.setWidth 2) o
    rw [hes] at hok hlvl
    rw [← Pins.get_clk, hlvl, replayLevels_get_of_write (by simp) hok, modePol_setWidth]
  · obtain ⟨pre, hes⟩ := byteEvents_eq_append_mosi data (mode.setWidth 2) o
    rw [hes] at hok hlvl
    rw [← Pins.get_mosi, hlvl, replayLevels_get_of_write (by simp [PortEvent.role?]) hok, lastBit_eq ho]

/-! ## What a receiver samples -/

/-- A write that leaves the clock at its level makes no edge. -/
theorem sampled_clk_same (edge clk mosi : Bool) (es : List PortEvent) :
    sampled edge clk mosi (.write .clk clk :: es) = sampled edge clk mosi es := if_neg fun h => h.2 h.1

/-- A change of the clock is an edge to its new level. -/
theorem sampled_clk_change (edge clk mosi : Bool) (es : List PortEvent) :
    sampled edge clk mosi (.write .clk (!clk) :: es) =
      (if edge = clk then [] else [mosi]) ++ sampled edge (!clk) mosi es := by
  cases edge <;> cases clk <;> rfl

/-- A pulse after the data write has each edge once, so a receiver reads the bit on either. -/
theorem sampled_pulse (edge clk mosi b : Bool) (es : List PortEvent) :
    sampled edge clk mosi (.write .mosi b :: .write .clk (!clk) :: .write .clk clk :: es) =
      b :: sampled edge clk b es := by
  cases edge <;> cases clk <;> rfl

theorem sampled_slots (edge mosi : Bool) (m : SpiMode) (bs : List Bool) (es : List PortEvent) :
    sampled edge (slotLevel m) mosi (bs.flatMap (slotEvents m) ++ es) =
      bs ++ sampled edge (slotLevel m) (bs.getLastD mosi) es := by
  induction bs generalizing mosi with
  | nil => rfl
  | cons b bs ih =>
    rw [List.flatMap_cons, List.append_assoc, List.getLastD_cons, List.cons_append, ← ih b]
    exact sampled_pulse ..

theorem getLastD_bitsInOrder (o : BitOrder) (v : Byte) (b : Bool) : (bitsInOrder o v).getLastD b = lastBit o v := by
  cases o <;> rfl

/-- Without the pre-flip the slots are the only pulses. -/
theorem sampled_byteEvents_of_not_preflips {m : SpiMode} (h : preflips m = false) (edge mosi : Bool) (v : Byte)
    (o : BitOrder) : sampled edge (modePol m) mosi (byteEvents v m o) = bitsInOrder o v := by
  have hslot : slotLevel m = modePol m := by simp [slotLevel, h]
  have hes : byteEvents v m o =
      .write .clk (modePol m) :: ((bitsInOrder o v).flatMap (slotEvents m) ++ [.write .clk (modePol m)]) := by
    simp [byteEvents, h]
  rw [hes, sampled_clk_same, ← hslot, sampled_slots, sampled_clk_same]
  exact List.append_nil _

/-- The pre-flip opens one more pulse, which the last write closes: its leading edge meets the stale MOSI, its other
edge the last bit. -/
theorem sampled_byteEvents_of_preflips {m : SpiMode} (h : preflips m = true) (edge mosi : Bool) (v : Byte)
    (o : BitOrder) : sampled edge (modePol m) mosi (byteEvents v m o) =
      (if edge = modePol m then [] else [mosi]) ++
        (bitsInOrder o v ++ if edge = modePol m then [lastBit o v] else []) := by
  have hslot : slotLevel m = !(modePol m) := by simp [slotLevel, h]
  have hes : byteEvents v m o = .write .clk (modePol m) :: .write .clk (!(modePol m)) ::
      ((bitsInOrder o v).flatMap (slotEvents m) ++ [.write .clk (!(slotLevel m))]) := by
    simp [byteEvents, h, hslot]
  rw [hes, sampled_clk_same, sampled_clk_change, ← hslot, sampled_slots, sampled_clk_change, getLastD_bitsInOrder,
    hslot]
  cases edge <;> cases modePol m <;> rfl

/-- Settles O19, by whether the mode makes the pre-flip. -/
theorem receiverReadsEightBits : Obligations.ReceiverReadsEightBits := by
  intro data mode order o mosi s hl hm ho
  obtain ⟨t, he, hev, -⟩ := writeByteSendsItsByte data mode order o s hl hm ho
  refine ⟨t, _, he, hev, fun hmode edge => ?_, fun hmode => ?_⟩ <;>
    rw [answered_map_event, ← modePol_setWidth]
  · have hp : preflips (mode.setWidth 2) = false := by rcases hmode with rfl | rfl <;> rfl
    exact sampled_byteEvents_of_not_preflips hp edge mosi data o
  · have hp : preflips (mode.setWidth 2) = true := by rcases hmode with rfl | rfl <;> rfl
    rw [sampled_byteEvents_of_preflips hp, sampled_byteEvents_of_preflips hp, ← lastBit_eq ho]
    simp

end Sys2Proof
end

section
/-! SUPPORT. No port primitive reads a pin (`40_spi_transport.md` R87). -/

namespace Sys2Proof

open Sys2Proof.Machine

theorem neverReads_issued {e : PortEvent} {s t : State} (h : NeverReads s) (hi : Issued [e] s t)
    (he : ∀ r, e ≠ .read r) : NeverReads t := by
  intro x hx
  rw [hi.trace, List.mem_append, List.mem_reverse] at hx
  rcases hx with hnew | hold
  · rw [List.mem_singleton.mp (event_mem_of_mem_answered hnew)]
    exact he
  · exact h x hold

theorem portClosed_neverReads : PortClosed NeverReads where
  pwrite r v s h := neverReads_issued h (issued_pwrite r v s) (by simp)
  delay ms s h := neverReads_issued h (issued_delay ms s) (by simp)
  acquire r s h := neverReads_issued h (issued_acquirePin r s) (by simp)
  direct d r s h := neverReads_issued h (issued_directPin d r s) (by simp)
  release r s h := neverReads_issued h (issued_releasePin r s) (by simp)
  other s t hst h := by rw [NeverReads, hst.1]; exact h

/-- Settles O50: every step is made of port primitives, none of which reads; a hardware reset empties TRACE. -/
theorem stepNeverReadsAPin : Obligations.StepNeverReadsAPin := by
  intro s t hs h
  exact portClosed_neverReads.step (fun _ _ => neverReads_reset) h hs

end Sys2Proof
end

section
/-! SUPPORT. The lines that bytes, preambles, pages and whole draws write, and the write each line ends at. -/

namespace Sys2Proof

open Sys2Proof.Machine

/-! ## The lines they write -/

theorem role?_ne_of_mem_byteEvents {v : Byte} {m : SpiMode} {o : BitOrder} {e : PortEvent} {r : Role}
    (hc : r ≠ .clk) (hm : r ≠ .mosi) (h : e ∈ byteEvents v m o) : e.role? ≠ some r := by
  rcases role?_of_mem_byteEvents h with hr | hr
  · rw [hr]; simpa using hc.symm
  · rw [hr]; simpa using hm.symm

theorem role?_ne_of_mem_sessionBytes {p : Params} {bytes : List Byte} {e : PortEvent} {r : Role}
    (hc : r ≠ .clk) (hm : r ≠ .mosi) (h : e ∈ bytes.flatMap (sessionByteEvents p)) : e.role? ≠ some r := by
  obtain ⟨v, -, hv⟩ := List.mem_flatMap.mp h
  exact role?_ne_of_mem_byteEvents hc hm hv

/-- A preamble writes CLK, MOSI and DC only (`41_sh1106_controller.md` R96). -/
theorem role?_ne_of_mem_preambleEvents {p : Params} {pg : BitVec 3} {e : PortEvent} {r : Role}
    (hc : r ≠ .clk) (hm : r ≠ .mosi) (hd : r ≠ .dc) (h : e ∈ preambleEvents p pg) : e.role? ≠ some r := by
  rw [preambleEvents, List.mem_append, List.mem_append, List.mem_singleton, List.mem_singleton] at h
  rcases h with (rfl | h) | rfl
  · simpa [PortEvent.role?] using hd.symm
  · exact role?_ne_of_mem_sessionBytes hc hm h
  · simpa [PortEvent.role?] using hd.symm

theorem role?_ne_of_mem_pageEvents {p : Params} {pg : BitVec 3} {data : List Byte} {e : PortEvent} {r : Role}
    (hc : r ≠ .clk) (hm : r ≠ .mosi) (hd : r ≠ .dc) (h : e ∈ pageEvents p pg data) : e.role? ≠ some r := by
  rcases List.mem_append.mp h with h | h
  · exact role?_ne_of_mem_preambleEvents hc hm hd h
  · exact role?_ne_of_mem_sessionBytes hc hm h

theorem role?_ne_of_mem_frameEvents {p : Params} {payload : List Byte} {e : PortEvent} {r : Role}
    (hc : r ≠ .clk) (hm : r ≠ .mosi) (hd : r ≠ .dc) (h : e ∈ frameEvents p payload) : e.role? ≠ some r := by
  obtain ⟨pg, -, hpg⟩ := List.mem_flatMap.mp h
  exact role?_ne_of_mem_pageEvents hc hm hd hpg

/-! ## The writes they end at -/

/-- A line on which no call failed has the level of its last write. -/
theorem Issued.lvl_get_of_last_write {es pre post : List PortEvent} {s t : State} {r : Role} {v : Bool}
    (h : Issued es s t) (hes : es = pre ++ .write r v :: post) (hpost : ∀ e ∈ post, e.role? ≠ some r)
    (hok : failedOn r (answered s 0 es) = false) : t.lvl.get r = Level.ofBool v := by
  subst hes
  rw [h.lvl]
  exact replayLevels_get_of_write hpost hok s.lvl

/-- Bytes end with the clock driven to its idle level. -/
theorem sessionBytes_eq_append_clk (p : Params) {bytes : List Byte} (h : bytes ≠ []) :
    ∃ pre, bytes.flatMap (sessionByteEvents p) = pre ++ .write .clk (modePol p.cfgMode) :: [] := by
  obtain ⟨init, last, rfl⟩ := (List.eq_nil_or_concat bytes).resolve_left h
  obtain ⟨pre, hpre⟩ := byteEvents_eq_append_clk last p.cfgMode p.cfgOrder
  refine ⟨init.flatMap (sessionByteEvents p) ++ pre, ?_⟩
  rw [List.concat_eq_append, List.flatMap_append, List.flatMap_singleton, sessionByteEvents, hpre, List.append_assoc]

theorem pageEvents_eq_append_clk (p : Params) (pg : BitVec 3) {data : List Byte} (h : data ≠ []) :
    ∃ pre, pageEvents p pg data = pre ++ .write .clk (modePol p.cfgMode) :: [] := by
  obtain ⟨pre, hpre⟩ := sessionBytes_eq_append_clk p h
  exact ⟨preambleEvents p pg ++ pre, by rw [pageEvents, hpre, List.append_assoc]⟩

/-- After the preamble of a page only its data bytes follow. -/
theorem pageEvents_eq_append_dc (p : Params) (pg : BitVec 3) (data : List Byte) :
    ∃ pre, pageEvents p pg data = pre ++ .write .dc true :: data.flatMap (sessionByteEvents p) :=
  ⟨[.write .dc false] ++ (addressBytes pg).flatMap (sessionByteEvents p), by simp [pageEvents, preambleEvents]⟩

/-- The last page of a frame. -/
theorem frameEvents_eq_append_page (p : Params) (payload : List Byte) :
    ∃ pre, frameEvents p payload = pre ++ pageEvents p 7 (framePage payload 7) :=
  ⟨_, by rw [frameEvents, List.range_succ, List.flatMap_append, List.flatMap_singleton]; rfl⟩

/-- After a page whose calls were all answered ok, DC is high and the clock idle (`60_exceptions.md` R138). -/
theorem Issued.page_lines {es pre : List PortEvent} {s t : State} {p : Params} {pg : BitVec 3} {data : List Byte}
    (h : Issued es s t) (hes : es = pre ++ pageEvents p pg data) (hdata : data ≠ [])
    (hok : ∀ r, failedOn r (answered s 0 es) = false) :
    t.lvl.dc = .high ∧ t.lvl.clk = Level.ofBool (modePol p.cfgMode) := by
  obtain ⟨preDc, hdc⟩ := pageEvents_eq_append_dc p pg data
  obtain ⟨preClk, hclk⟩ := pageEvents_eq_append_clk p pg hdata
  constructor
  · exact h.lvl_get_of_last_write (r := .dc) (hes.trans (by rw [hdc, ← List.append_assoc]))
      (fun _ => role?_ne_of_mem_sessionBytes (by decide) (by decide)) (hok .dc)
  · exact h.lvl_get_of_last_write (r := .clk) (hes.trans (by rw [hclk, ← List.append_assoc])) (by simp) (hok .clk)

end Sys2Proof
end

section
/-! SUPPORT. The wire commands and the preamble: what each wire command leaves (`41_sh1106_controller.md` R98), and
the addressing of a page (R96). -/

namespace Sys2Proof

open Sys2Proof.Machine

/-- Each wire command is one byte sent (`30_encoding.md` R71). -/
theorem exec_wire_sends {i : Instr} {s t : State} (hi : i.space = .wire) (h : exec i s = .next t) :
    ∃ v, t = sendByte v s := by
  cases i with
  | setpage p => cases h; exact ⟨_, rfl⟩
  | setcollo => cases h; exact ⟨_, rfl⟩
  | setcolhi => cases h; exact ⟨_, rfl⟩
  | powerup | powerdown | drawframe | drawtext | writebyte => cases hi

/-- Settles O44: each of the three is one byte sent. -/
theorem wireCommandFrame : Obligations.WireCommandFrame := by
  intro i s t hi h
  obtain ⟨v, rfl⟩ := exec_wire_sends hi h
  have hlvl : ∀ r, r ≠ .clk → r ≠ .mosi → (sendByte v s).lvl.get r = s.lvl.get r := fun r hc hm =>
    writeByte_lvl_get hc hm _ _ _ _
  simpa using hlvl

theorem length_preambleEvents (p : Params) (pg : BitVec 3) :
    (preambleEvents p pg).length = 2 + 3 * eventsPerByte p.cfgMode := by
  simpa [pageEvents] using length_pageEvents p pg []

/-- Every event of a preamble is a call. -/
theorem calls_preambleEvents (p : Params) (pg : BitVec 3) :
    calls (preambleEvents p pg) = 2 + 3 * eventsPerByte p.cfgMode := by
  rw [preambleEvents, calls_append, calls_append, calls_sessionBytes, calls_cons_call rfl, calls_cons_call rfl]
  simp only [addressBytes, List.length_cons, List.length_nil, calls_nil]
  omega

theorem preambleEvents_eq (p : Params) (pg : BitVec 3) :
    preambleEvents p pg =
      [.write .dc false] ++ byteEvents (0xB0#8 + pg.setWidth 8) p.cfgMode p.cfgOrder ++
        byteEvents 0x02#8 p.cfgMode p.cfgOrder ++ byteEvents 0x10#8 p.cfgMode p.cfgOrder ++ [.write .dc true] := by
  simp [preambleEvents, addressBytes, sessionByteEvents]

/-- Settles O45: the events are those of R96, and the last of them is the last write of DC. -/
theorem preambleAddressesPage : Obligations.PreambleAddressesPage := by
  intro p s
  have h := issued_preamble p s
  refine ⟨?_, ?_, fun hok => ?_, ?_, ?_⟩
  · rw [h.events, preambleEvents_eq]
  · rw [h.trace_length, length_preambleEvents]
  · have hlast : calls (preambleEvents s.params p) - 1 = 1 + 3 * eventsPerByte s.params.cfgMode := by
      rw [calls_preambleEvents]; omega
    rw [preamble_lvl_dc, hlast, hok]
  · exact h.lvl_get_of_ne (r := .cs) fun _ => role?_ne_of_mem_preambleEvents (by decide) (by decide) (by decide)
  · exact h.lvl_get_of_ne (r := .rst) fun _ => role?_ne_of_mem_preambleEvents (by decide) (by decide) (by decide)

end Sys2Proof
end

section
/-! SUPPORT. POWERDOWN: its contract, what it leaves, and that a second one does nothing (`41_sh1106_controller.md`
R101). -/

namespace Sys2Proof

open Sys2Proof.Machine

/-- POWERDOWN touches the pins it holds only. -/
theorem role?_ne_of_mem_powerDownEvents {acq : BitVec 7} {e : PortEvent} {r : Role} (hr : roleBit acq r = false)
    (h : e ∈ powerDownEvents acq) : e.role? ≠ some r := by
  intro he
  rcases List.mem_append.mp h with h | h
  · obtain ⟨q, hq, rfl⟩ := List.mem_map.mp h
    cases he
    exact absurd (List.mem_filter.mp hq).2 (by simp [hr])
  · obtain ⟨q, hq, rfl⟩ := List.mem_map.mp h
    cases he
    exact absurd (List.mem_filter.mp hq).2 (by simp [hr])

/-- With nothing held, POWERDOWN only ends in ShutDown. -/
theorem powerDownCommand_of_released {s : State} (h : s.acq = 0#7) :
    powerDownCommand s = finish none s.pfail { s with life := .shutDown, inited := false } := by
  have hbit : ∀ r, roleBit s.acq r ≠ true := fun r => by simp [h]
  have hdrive : forRoles powerDownLines driveLowIfHeld s = s :=
    forRoles_keeps (P := (· = s)) (fun r t ht => by rw [ht]; exact if_neg (hbit r)) rfl
  have hrelease : forRoles roleOrder releaseIfHeld s = s :=
    forRoles_keeps (P := (· = s)) (fun r t ht => by rw [ht]; exact if_neg (hbit r)) rfl
  rw [powerDownCommand, hdrive, hrelease]

/-- Settles O27, from everything POWERDOWN's body does. -/
theorem powerDownAlwaysCompletes : Obligations.PowerDownAlwaysCompletes := by
  intro s
  obtain ⟨hissued, hacq, hdir, hlife, hinited, hlastres⟩ := powerDownCommand_spec (beginCommand s)
  obtain ⟨hevents, hlvl, hpfail⟩ := hissued.command
  exact ⟨_, rfl, hevents, hlvl, ⟨hlife, hacq⟩, hinited, hdir, hpfail, hlastres⟩

/-- Settles O28: after the first nothing is held, so the second only writes its result. -/
theorem powerDownIsIdempotent : Obligations.PowerDownIsIdempotent := by
  intro s t h
  cases h
  obtain ⟨-, hacq, -, hlife, hinited, -⟩ := powerDownCommand_spec (beginCommand s)
  generalize powerDownCommand (beginCommand s) = t at hacq hlife hinited
  have hrest : ({ beginCommand t with life := .shutDown, inited := false } : State) = beginCommand t := by
    rw [← hlife, ← hinited]
    rfl
  have hword : resultWord none 0#7 (beginCommand t) = 0x00002800#32 := by
    rw [resultWord, beginCommand_inited, beginCommand_acq, beginCommand_life, hinited, hacq, hlife]
    rfl
  calc exec .powerdown t = .next (finish none 0#7 { beginCommand t with life := .shutDown, inited := false }) :=
        congrArg _ (powerDownCommand_of_released (s := beginCommand t) hacq)
    _ = .next { beginCommand t with lastres := 0x00002800#32 } := by rw [hrest, finish, hword]

/-- Settles O29: a pin that is not held gets no event, and no call writes the other registers. -/
theorem powerDownFrame : Obligations.PowerDownFrame := by
  intro s t h
  cases h
  obtain ⟨hissued, -⟩ := powerDownCommand_spec (beginCommand s)
  have hlvl : ∀ r, roleBit s.acq r = false → (powerDownCommand (beginCommand s)).lvl.get r = s.lvl.get r :=
    fun r hr => hissued.lvl_get_of_ne fun _ => role?_ne_of_mem_powerDownEvents hr
  simpa using hlvl

end Sys2Proof
end

section
/-! SUPPORT. POWERUP: where its chain stops (`41_sh1106_controller.md` R91), and what each stop rests in. -/

namespace Sys2Proof

open Sys2Proof.Machine

/-! ## The stops -/

theorem Issued.pfail_ne_zero_of_fail {es : List PortEvent} {s t : State} {k : Nat}
    (h : Issued es (beginCommand s) t) (hk : k < calls es) (hfail : s.answerAt k = .fail) : t.pfail ≠ 0#7 := by
  intro hzero
  rw [h.pfail_eq_zero_iff_ok.mp hzero k hk] at hfail
  cases hfail

/-- With call k the first that fails, PFAIL is clear up to the steps that make no more than k calls. -/
theorem Issued.pfail_eq_zero_iff_le {es : List PortEvent} {s t : State} {k : Nat}
    (h : Issued es (beginCommand s) t) (hok : s.PortOk k) (hfail : s.answerAt k = .fail) :
    t.pfail = 0#7 ↔ calls es ≤ k := by
  constructor
  · intro hzero
    by_contra hlt
    exact h.pfail_ne_zero_of_fail (Nat.lt_of_not_le hlt) hfail hzero
  · exact fun hle => h.pfail_eq_zero_iff_ok.mpr fun j hj => hok j (by omega)

/-- What a command that ends in an error reports: its events, and the roles its calls failed on. -/
theorem Issued.raise_reports {es : List PortEvent} {s u : State} (h : Issued es (beginCommand s) u) (e : ErrorKind) :
    (Machine.raise e u.pfail u).events = s.events ++ answered s 0 es ∧
      (∀ r, roleBit (Machine.raise e u.pfail u).pfail r = failedOn r (answered s 0 es)) ∧
      (Machine.raise e u.pfail u).lastres =
        resultWord (some e) (Machine.raise e u.pfail u).pfail (Machine.raise e u.pfail u) := by
  obtain ⟨hevents, -, hpfail⟩ := h.command
  exact ⟨hevents, hpfail, rfl⟩

theorem take_powerUpEvents (p : Params) :
    (powerUpEvents p).take 7 = acquireEvents ∧ (powerUpEvents p).take 14 = acquireEvents ++ directEvents ∧
      (powerUpEvents p).take 16 = acquireEvents ++ directEvents ++ assertEvents p ∧
      (powerUpEvents p).take 23 = acquireEvents ++ directEvents ++ assertEvents p ++ resetEvents :=
  ⟨rfl, rfl, rfl, rfl⟩

/-- Where a POWERUP with first failing call k stops: the state u at that step boundary, with the events up to it. -/
theorem exec_powerup_stop {s : State} {k : Nat} (hl : s.life = .uninitialized) (hok : s.PortOk k)
    (hfail : s.answerAt k = .fail) (hk : k < 20 + 25 * eventsPerByte s.params.cfgMode) :
    ∃ u, exec .powerup s = .next (raise (powerUpStop s.params k).2.2 u.pfail u) ∧
      Issued ((powerUpEvents s.params).take (powerUpStop s.params k).1) (beginCommand s) u ∧
      u.life = (powerUpStop s.params k).2.1 ∧ u.inited = s.inited ∧ u.pfail ≠ 0#7 := by
  have h0 : (stageAcquire s).pfail = 0#7 ↔ 7 ≤ k := (issued_stageAcquire s).pfail_eq_zero_iff_le hok hfail
  have h1 : (stageDirect s).pfail = 0#7 ↔ 14 ≤ k := (issued_stageDirect s).pfail_eq_zero_iff_le hok hfail
  have h2 : (stageAssert s).pfail = 0#7 ↔ 16 ≤ k := (issued_stageAssert s).pfail_eq_zero_iff_le hok hfail
  have h3 : (stageReset s).pfail = 0#7 ↔ 20 ≤ k := (issued_stageReset s).pfail_eq_zero_iff_le hok hfail
  have h4 : (stageInit s).pfail ≠ 0#7 :=
    (issued_stageInit s).pfail_ne_zero_of_fail (by rwa [calls_powerUpEvents]) hfail
  obtain ⟨take7, take14, take16, take23⟩ := take_powerUpEvents s.params
  rcases exec_powerup_cases hl with ⟨hp, e⟩ | ⟨hz, hp, e⟩ | ⟨-, hz, hp, e⟩ | ⟨-, -, hz, hp, e⟩ |
    ⟨-, -, -, hz, hp, e⟩ | ⟨-, -, -, -, hz, -⟩
  · have hstop : powerUpStop s.params k = (7, .uninitialized, .pinUnavailable) := by
      have hlt := mt h0.mpr hp
      exact if_pos (by omega)
    rw [hstop, take7]
    exact ⟨_, e, issued_stageAcquire s, by simp [hl], by simp, hp⟩
  · have hstop : powerUpStop s.params k = (14, .pinsAcquired, .pinAccessError) := by
      have hle := h0.mp hz
      have hlt := mt h1.mpr hp
      rw [powerUpStop, if_neg (by omega), if_pos (by omega)]
    rw [hstop, take14]
    exact ⟨_, e, issued_stageDirect s, by simp, by simp, hp⟩
  · have hstop : powerUpStop s.params k = (16, .pinsAcquired, .pinAccessError) := by
      have hle := h1.mp hz
      have hlt := mt h2.mpr hp
      rw [powerUpStop, if_neg (by omega), if_neg (by omega), if_pos (by omega)]
    rw [hstop, take16]
    exact ⟨_, e, issued_stageAssert s, by simp, by simp, hp⟩
  · have hstop : powerUpStop s.params k = (23, .pinsAcquired, .pinAccessError) := by
      have hle := h2.mp hz
      have hlt := mt h3.mpr hp
      rw [powerUpStop, if_neg (by omega), if_neg (by omega), if_neg (by omega), if_pos (by omega)]
    rw [hstop, take23]
    exact ⟨_, e, issued_stageReset s, by simp, by simp, hp⟩
  · have hstop : powerUpStop s.params k = ((powerUpEvents s.params).length, .reset, .pinAccessError) := by
      have hle := h3.mp hz
      rw [powerUpStop, if_neg (by omega), if_neg (by omega), if_neg (by omega), if_neg (by omega)]
    rw [hstop, List.take_length]
    exact ⟨_, e, issued_stageInit s, by simp, by simp, hp⟩
  · exact absurd hz h4

/-- Settles O22: the step boundary at which the chain stops, and what a raised error reports. -/
theorem powerUpStopsAtStepBoundary : Obligations.PowerUpStopsAtStepBoundary := by
  intro s k hl hok hfail hk
  obtain ⟨u, he, hissued, hlife, hinited, hpfail⟩ := exec_powerup_stop hl hok hfail hk
  obtain ⟨hevents, hroles, hlastres⟩ := hissued.raise_reports (powerUpStop s.params k).2.2
  exact ⟨_, he, hevents, hlife, hinited, hpfail, hroles, hlastres⟩

/-- Settles O23: with a failed acquisition the chain stops after `acquireAll()`. -/
theorem failedAcquisitionKeepsPartialPins : Obligations.FailedAcquisitionKeepsPartialPins := by
  intro s hl hfail
  obtain ⟨k, hk, hfail⟩ := hfail
  have hissued := issued_stageAcquire s
  have hp : (stageAcquire s).pfail ≠ 0#7 := hissued.pfail_ne_zero_of_fail hk hfail
  have he : exec .powerup s = .next (raise .pinUnavailable (stageAcquire s).pfail (stageAcquire s)) := by
    rcases exec_powerup_cases hl with ⟨-, e⟩ | ⟨hz, -⟩ | ⟨hz, -⟩ | ⟨hz, -⟩ | ⟨hz, -⟩ | ⟨hz, -⟩
    · exact e
    all_goals exact absurd hz hp
  obtain ⟨hevents, hroles, hlastres⟩ := hissued.raise_reports .pinUnavailable
  have hacq : ∀ r, roleBit (stageAcquire s).acq r = (roleBit s.acq r || decide (s.answerAt r.index = .ok)) := by
    unfold stageAcquire
    exact acquireAll_acq (beginCommand s)
  refine ⟨_, he, hevents, hacq, fun r => ?_, by simp, by simp, by simp [hl], by simp, hlastres⟩
  rw [hroles, failedOn_acquire, Nat.zero_add]

/-- LVL after the direction batch: every setDirection makes the level of its pin unknown, whatever the answer. -/
theorem replayLevels_direct (l : Pins Level) (s : State) (k : Nat) :
    replayLevels l (answered s k directEvents) = Pins.all .unknown := rfl

/-- DIR at the second step boundary: the direction calls are calls 7 to 13. -/
theorem stageDirect_dir (s : State) (r : Role) :
    (stageDirect s).dir.get r = if s.answerAt (7 + r.index) = .ok then sessionDir.get r else none := by
  have hans : ({ stageAcquire s with life := .pinsAcquired } : State).answerAt r.index = s.answerAt (7 + r.index) :=
    (issued_stageAcquire s).answerAt r.index
  unfold stageDirect
  rw [directAll_dir, hans]

/-- Settles O24: with every acquisition and not every direction call answered ok, the chain stops after
`directAll()`. -/
theorem failedDirectionRestsInPinsAcquired : Obligations.FailedDirectionRestsInPinsAcquired := by
  intro s hl hok hfail
  obtain ⟨k, -, hk, hfail⟩ := hfail
  have hz : (stageAcquire s).pfail = 0#7 := (issued_stageAcquire s).pfail_of_portOk rfl hok le_rfl
  have hissued := issued_stageDirect s
  have hp : (stageDirect s).pfail ≠ 0#7 := hissued.pfail_ne_zero_of_fail hk hfail
  have he : exec .powerup s = .next (raise .pinAccessError (stageDirect s).pfail (stageDirect s)) := by
    rcases exec_powerup_cases hl with ⟨hz', -⟩ | ⟨-, -, e⟩ | ⟨-, hp', -⟩ | ⟨-, hp', -⟩ | ⟨-, hp', -⟩ | ⟨-, hp', -⟩
    · exact absurd hz hz'
    · exact e
    all_goals exact absurd hp' hp
  obtain ⟨hevents, hroles, hlastres⟩ := hissued.raise_reports .pinAccessError
  have hlvl : (stageDirect s).lvl = Pins.all .unknown := by
    rw [hissued.lvl, answered_append, replayLevels_append, replayLevels_direct]
  refine ⟨_, he, hevents, ?_, stageDirect_dir s, fun r => ?_, fun r => ?_, by simp, by simp, by simp, hlastres⟩
  · simpa using stageAcquire_acq_of_pfail hz
  · rw [hroles, answered_append, failedOn_append, answered_portOk hok le_rfl, failedOn_ok, failedOn_direct,
      Bool.false_or]
    rfl
  · rw [raise_lvl, hlvl, Pins.get_all]

/-! ## The whole chain -/

/-- LVL after `reset()` with every call answered ok: CLK, MOSI and MISO were only directed. -/
theorem replayLevels_reset_ok (l : Pins Level) (p : Params) :
    replayLevels l ((acquireEvents ++ directEvents ++ assertEvents p ++ resetEvents).map okEntry) =
      ⟨.unknown, .unknown, .unknown, Level.ofBool p.csActive, .low, .low, .high⟩ := rfl

theorem stageReset_lvl_of_portOk {s : State} (hok : s.PortOk 20) :
    (stageReset s).lvl =
      ⟨.unknown, .unknown, .unknown, Level.ofBool s.params.csActive, .low, .low, .high⟩ := by
  rw [(issued_stageReset s).lvl, answered_beginCommand, answered_portOk hok (calls_resetEvents _).le,
    replayLevels_reset_ok]

/-- The 25 initialization bytes are sent at the level DC has (`41_sh1106_controller.md` R97, R104). -/
theorem wireLog_initializeDisplay (s : State) :
    (initializeDisplay s).wireLog = s.wireLog ++ sessionEntries s.params s.lvl.dc s.params.initSeq.toList := by
  have hbytes : (List.finRange 25).flatMap (fun i => sessionEntries s.params s.lvl.dc [s.params.initSeq[i]]) =
      sessionEntries s.params s.lvl.dc s.params.initSeq.toList := by
    rw [flatMap_finRange_get s.params.initSeq fun v => sessionEntries s.params s.lvl.dc [v], sessionEntries,
      List.map_eq_flatMap]
    rfl
  rw [initializeDisplay, ← hbytes]
  refine wireLog_forEach (Q := fun t => t.params = s.params ∧ t.lvl.dc = s.lvl.dc) (fun i t ht => ?_)
    (fun i t ht => by simpa using ht) ⟨rfl, rfl⟩
  obtain ⟨hparams, hdc⟩ := ht
  rw [wireLog_sendByte]
  simp only [hparams, hdc]
  rfl

theorem wireLog_stageInit {s : State} (hok : s.PortOk 20) :
    (stageInit s).wireLog = s.wireLog ++ sessionEntries s.params .low s.params.initSeq.toList := by
  have hlog : (stageReset s).wireLog = s.wireLog := congrArg List.reverse (stageReset_wire s)
  calc (stageInit s).wireLog = (stageReset s).wireLog ++ sessionEntries (stageReset s).params (stageReset s).lvl.dc
        (stageReset s).params.initSeq.toList := by
        unfold stageInit
        exact wireLog_initializeDisplay _
    _ = s.wireLog ++ sessionEntries s.params .low s.params.initSeq.toList := by
        rw [hlog, stageReset_params, stageReset_lvl_of_portOk hok]

theorem issued_stageInit_initEvents (s : State) : Issued (initEvents s.params) (stageReset s) (stageInit s) := by
  rw [← stageReset_params]
  unfold stageInit
  exact Issued.of_life (l := .reset) (issued_initializeDisplay { stageReset s with life := .reset })

/-- The 25 bytes leave every line but CLK and MOSI. -/
theorem stageInit_lvl_get {r : Role} (hc : r ≠ .clk) (hm : r ≠ .mosi) (s : State) :
    (stageInit s).lvl.get r = (stageReset s).lvl.get r :=
  (issued_stageInit_initEvents s).lvl_get_of_ne fun _ => role?_ne_of_mem_sessionBytes hc hm

theorem stageInit_lvl_clk {s : State} (hok : s.PortOk (20 + 25 * eventsPerByte s.params.cfgMode)) :
    (stageInit s).lvl.clk = Level.ofBool (modePol s.params.cfgMode) := by
  have hne : s.params.initSeq.toList ≠ [] := fun h => by simpa using congrArg List.length h
  obtain ⟨pre, hpre⟩ := sessionBytes_eq_append_clk s.params hne
  have hes : powerUpEvents s.params = (acquireEvents ++ directEvents ++ assertEvents s.params ++ resetEvents ++ pre) ++
      .write .clk (modePol s.params.cfgMode) :: [] := by
    rw [powerUpEvents, initEvents, hpre, ← List.append_assoc]
  refine (issued_stageInit s).lvl_get_of_last_write (r := .clk) hes (by simp) ?_
  rw [answered_beginCommand, answered_portOk hok (calls_powerUpEvents _).le, failedOn_ok]

/-- Twenty calls answered ok bring the chain past four step boundaries. -/
theorem stages_pfail_of_portOk {s : State} (hok : s.PortOk 20) :
    (stageAcquire s).pfail = 0#7 ∧ (stageDirect s).pfail = 0#7 ∧ (stageAssert s).pfail = 0#7 ∧
      (stageReset s).pfail = 0#7 :=
  ⟨(issued_stageAcquire s).pfail_of_portOk rfl hok (show 7 ≤ 20 by decide),
    (issued_stageDirect s).pfail_of_portOk rfl hok (show 14 ≤ 20 by decide),
    (issued_stageAssert s).pfail_of_portOk rfl hok (show 16 ≤ 20 by decide),
    (issued_stageReset s).pfail_of_portOk rfl hok (show 20 ≤ 20 by decide)⟩

/-- With no failed call the chain of POWERUP ends in Ready. -/
theorem exec_powerup_ready {s : State} (hl : s.life = .uninitialized)
    (hok : s.PortOk (20 + 25 * eventsPerByte s.params.cfgMode)) :
    (stageInit s).pfail = 0#7 ∧
      exec .powerup s = .next (finish none 0#7 { stageInit s with life := .ready, inited := true }) := by
  obtain ⟨h0, h1, h2, h3⟩ := stages_pfail_of_portOk fun k hk => hok k (by omega)
  have h4 := (issued_stageInit s).pfail_of_portOk rfl hok (calls_powerUpEvents s.params).le
  rcases exec_powerup_cases hl with ⟨hp, -⟩ | ⟨-, hp, -⟩ | ⟨-, -, hp, -⟩ | ⟨-, -, -, hp, -⟩ | ⟨-, -, -, -, hp, -⟩ |
    ⟨-, -, -, -, -, e⟩
  · exact absurd h0 hp
  · exact absurd h1 hp
  · exact absurd h2 hp
  · exact absurd h3 hp
  · exact absurd h4 hp
  · exact ⟨h4, e⟩

/-- The result word of a POWERUP that reaches Ready. -/
theorem resultWord_ready {s : State} (hacq : s.acq = 0x7F#7) :
    resultWord none 0#7 { s with life := .ready, inited := true } = 0x003FE000#32 := by
  simp only [resultWord, hacq]
  rfl

/-- Settles O21: no step stops the chain, and the lines keep the levels `reset()` left but CLK and MOSI. -/
theorem powerUpReachesReady : Obligations.PowerUpReachesReady := by
  intro s hl hok
  have hok20 : s.PortOk 20 := fun k hk => hok k (by omega)
  obtain ⟨hp, he⟩ := exec_powerup_ready hl hok
  have hissued := issued_stageInit s
  obtain ⟨hevents, -, -⟩ := hissued.command
  obtain ⟨h0, h1, -, -⟩ := stages_pfail_of_portOk hok20
  have hacq : (stageInit s).acq = 0x7F#7 := (stageInit_acq s).trans (stageAcquire_acq_of_pfail h0)
  have hlvl : ∀ r, r ≠ .clk → r ≠ .mosi → (stageInit s).lvl.get r =
      Pins.get ⟨.unknown, .unknown, .unknown, Level.ofBool s.params.csActive, .low, .low, .high⟩ r := fun r hc hm => by
    rw [stageInit_lvl_get hc hm, stageReset_lvl_of_portOk hok20]
  refine ⟨_, he, ?_, ?_, wireLog_stageInit hok20, rfl, rfl, hacq, ?_, hp, resultWord_ready hacq, stageInit_lvl_clk hok,
    hlvl .miso (by decide) (by decide), hlvl .cs (by decide) (by decide), hlvl .dc (by decide) (by decide),
    hlvl .rst (by decide) (by decide), hlvl .bl (by decide) (by decide)⟩
  · rw [← answered_portOk hok (calls_powerUpEvents s.params).le]
    exact hevents
  · rw [← length_powerUpEvents]
    exact hissued.trace_length
  · exact (stageInit_dir s).trans (stageDirect_dir_of_pfail h0 h1)

/-- Settles O25: the lifecycle is asked for before the first port call. -/
theorem powerUpOnlyInUninitialized : Obligations.PowerUpOnlyInUninitialized := fun _ => exec_powerup_refused

/-- Settles O26, by the end of the chain: no stage writes these registers. -/
theorem powerUpFrame : Obligations.PowerUpFrame := by
  intro s t h
  by_cases hl : s.life = .uninitialized
  · rcases exec_powerup_cases hl with ⟨-, e⟩ | ⟨-, -, e⟩ | ⟨-, -, -, e⟩ | ⟨-, -, -, -, e⟩ | ⟨-, -, -, -, -, e⟩ |
      ⟨-, -, -, -, -, e⟩ <;> cases e.symm.trans h <;> simp
  · cases (exec_powerup_refused hl).symm.trans h
    simp [refusedWith]

end Sys2Proof
end

section
/-! SUPPORT. DRAWFRAME and DRAWTEXT: their contracts whatever the port answers, the WIRE entries when it answers ok
(`41_sh1106_controller.md` R99, R100, R103, R104), and what they leave. -/

namespace Sys2Proof

open Sys2Proof.Machine

/-! ## WIRE with a port that answers ok -/

/-- A loop of n turns reaches what holds after n turns, when each turn takes what holds after i turns to what holds
after i + 1. -/
theorem forEach_induction {n : Nat} {f : Fin n → State → State} {P : Nat → State → Prop}
    (hf : ∀ i t, P i.val t → P (i.val + 1) (f i t)) {s : State} (h0 : P 0 s) : P n (forEach n f s) := by
  induction n with
  | zero => exact h0
  | succ n ih =>
    have hlast : forEach (n + 1) f s = f (Fin.last n) (forEach n (fun i => f i.castSucc) s) := by
      simp [forEach, List.finRange_succ_last, List.foldl_map]
    rw [hlast]
    exact hf (Fin.last n) _ (ih fun i t => hf i.castSucc t)

/-- The WIRE entries of one page: its addressing bytes with DC low, its data bytes with DC high
(`41_sh1106_controller.md` R103, R104). -/
def pageEntries (p : Params) (pg : BitVec 3) (data : List Byte) : List WireEntry :=
  sessionEntries p .low (addressBytes pg) ++ sessionEntries p .high data

/-- With its two writes of DC answered ok, a preamble sends with DC low and leaves DC high. -/
theorem preamble_of_portOk {pg : BitVec 3} {s : State} (hok : s.PortOk (calls (preambleEvents s.params pg))) :
    (preamble pg s).wireLog = s.wireLog ++ sessionEntries s.params .low (addressBytes pg) ∧
      (preamble pg s).lvl.dc = .high := by
  have hcalls := calls_preambleEvents s.params pg
  constructor
  · rw [wireLog_preamble, pwrite_dc_lvl, hok 0 (by omega)]
    rfl
  · rw [preamble_lvl_dc, hok _ (by omega)]

theorem calls_pageEvents (p : Params) (pg : BitVec 3) (data : List Byte) :
    calls (pageEvents p pg data) = 2 + (3 + data.length) * eventsPerByte p.cfgMode := by
  rw [pageEvents, calls_append, calls_preambleEvents, calls_sessionBytes]
  ring

theorem sessionEntries_flatMap {α : Type} (p : Params) (dc : Level) (l : List α) (g : α → List Byte) :
    l.flatMap (fun x => sessionEntries p dc (g x)) = sessionEntries p dc (l.flatMap g) := by
  simp [sessionEntries, List.map_flatMap]

@[simp] theorem sendColumn_lvl_dc (p : Fin 8) (x : Fin 128) (s : State) : (sendColumn p x s).lvl.dc = s.lvl.dc := by
  simp [sendColumn]

@[simp] theorem sendGlyphColumn_lvl_dc (inv : Bool) (i : Fin 16) (j : Fin 8) (s : State) :
    (sendGlyphColumn inv i j s).lvl.dc = s.lvl.dc := by
  unfold sendGlyphColumn
  split <;> simp

@[simp] theorem sendChar_lvl_dc (inv : Bool) (i : Fin 16) (s : State) : (sendChar inv i s).lvl.dc = s.lvl.dc := by
  unfold sendChar
  rw [forEach_same (·.lvl.dc) fun j t => sendGlyphColumn_lvl_dc inv i j t]

theorem wireLog_sendColumn (p : Fin 8) (x : Fin 128) (s : State) :
    (sendColumn p x s).wireLog = s.wireLog ++ sessionEntries s.params s.lvl.dc [pageRead s.pb p x] :=
  wireLog_sendByte ..

theorem wireLog_sendPage {p : Fin 8} {s : State}
    (hok : s.PortOk (calls (pageEvents s.params (BitVec.ofNat 3 p) (pageData s.pb p)))) :
    (sendPage p s).wireLog = s.wireLog ++ pageEntries s.params (BitVec.ofNat 3 p) (pageData s.pb p) := by
  rw [pageEvents, calls_append] at hok
  obtain ⟨hlog, hdc⟩ := preamble_of_portOk (pg := BitVec.ofNat 3 p) (s := { s with page := p }) fun k hk =>
    hok k (Nat.lt_add_right _ hk)
  have hcols := wireLog_forEach (Q := fun t => t.params = s.params ∧ t.pb = s.pb ∧ t.lvl.dc = .high)
    (f := sendColumn p) (ev := fun x : Fin 128 => sessionEntries s.params .high [pageRead s.pb p x])
    (fun x t ⟨hparams, hpb, hdc⟩ => by rw [wireLog_sendColumn, hparams, hpb, hdc])
    (fun x t ht => by simpa using ht) (s := preamble (BitVec.ofNat 3 p) { s with page := p })
    ⟨by simp, by simp, hdc⟩
  rw [sendPage, hcols, hlog, sessionEntries_flatMap, ← List.map_eq_flatMap, List.append_assoc]
  rfl

/-- How far a frame is after i pages: what the later pages rely on, the calls still to be answered ok, and WIRE. -/
structure FramePages (payload : List Byte) (s : State) (i : Nat) (t : State) : Prop where
  params : t.params = s.params
  pb : t.pb = toPages (s.fb.load payload) s.pb
  portOk : t.PortOk ((8 - i) * (2 + 131 * eventsPerByte s.params.cfgMode))
  wireLog : t.wireLog = s.wireLog ++
    (List.range i).flatMap fun p => pageEntries s.params (BitVec.ofNat 3 p) (framePage payload p)

theorem FramePages.sendPage {payload : List Byte} (hn : payload.length = 1024) {s t : State} {p : Fin 8}
    (h : FramePages payload s p t) : FramePages payload s (p + 1) (Machine.sendPage p t) := by
  obtain ⟨hparams, hpb, hok, hlog⟩ := h
  have hdata : pageData t.pb p = framePage payload p := by rw [hpb, pageData_frame hn]
  have hcalls : calls (pageEvents t.params (BitVec.ofNat 3 p) (pageData t.pb p)) =
      2 + 131 * eventsPerByte s.params.cfgMode := by
    rw [calls_pageEvents, hdata, length_framePage, hparams]
  have hpages : (8 - p.val) * (2 + 131 * eventsPerByte s.params.cfgMode) =
      2 + 131 * eventsPerByte s.params.cfgMode + (8 - (p.val + 1)) * (2 + 131 * eventsPerByte s.params.cfgMode) := by
    rw [show 8 - p.val = 8 - (p.val + 1) + 1 by omega, Nat.add_mul, Nat.one_mul, Nat.add_comm]
  refine ⟨by simpa using hparams, by simpa using hpb, ?_, ?_⟩
  · exact (issued_sendPage p t).portOk hok (by rw [hcalls, hpages])
  · rw [wireLog_sendPage fun k hk => hok k (by omega), hlog, hdata, hparams, List.range_succ, List.flatMap_append,
      List.flatMap_singleton, List.append_assoc]

theorem wireLog_frameSent {payload : List Byte} (hn : payload.length = 1024) {s : State}
    (hok : s.PortOk (16 + 1048 * eventsPerByte s.params.cfgMode)) :
    (frameSent payload s).wireLog = s.wireLog ++
      (List.range 8).flatMap fun p => pageEntries s.params (BitVec.ofNat 3 p) (framePage payload p) := by
  have hstart : FramePages payload s 0 (convertFrame (loadFrame payload (beginCommand s))) :=
    ⟨rfl, rfl, fun k hk => hok k (by omega), (List.append_nil _).symm⟩
  unfold frameSent
  exact (forEach_induction (P := FramePages payload s) (fun p t h => h.sendPage hn) hstart).wireLog

/-- A character is sent at the level DC has. -/
theorem wireLog_sendChar (inv : Bool) (i : Fin 16) (s : State) :
    (sendChar inv i s).wireLog =
      s.wireLog ++ sessionEntries s.params s.lvl.dc (charBytes s.params inv (Memory.read s.tx i)) := by
  rw [charBytes_eq, ← sessionEntries_flatMap, sendChar]
  refine wireLog_forEach (Q := fun t => t.params = s.params ∧ t.tx = s.tx ∧ t.lvl.dc = s.lvl.dc)
    (fun j t ht => ?_) (fun j t ht => by simpa using ht) ⟨rfl, rfl, rfl⟩
  obtain ⟨hparams, htx, hdc⟩ := ht
  rw [← hparams, ← htx, ← hdc]
  unfold sendGlyphColumn columnBytes
  cases glyphIndex (Memory.read t.tx i) with
  | none => exact (List.append_nil _).symm
  | some g => exact wireLog_sendByte ..

theorem wireLog_textSent {line : List Byte} (hn : line.length = 16) (inv : Bool) {row : BitVec 4} {s : State}
    (hok : s.PortOk (calls (textEvents s.params inv row line))) :
    (textSent inv row line s).wireLog =
      s.wireLog ++ pageEntries s.params (row.setWidth 3) (lineBytes s.params inv line) := by
  rw [textEvents, pageEvents, calls_append] at hok
  obtain ⟨hlog, hdc⟩ := preamble_of_portOk (pg := row.setWidth 3) (s := loadText line (beginCommand s)) fun k hk =>
    hok k (Nat.lt_add_right _ hk)
  have hchars := wireLog_forEach
    (Q := fun t => t.params = s.params ∧ t.tx = s.tx.load line ∧ t.lvl.dc = .high) (f := sendChar inv)
    (ev := fun i : Fin 16 => sessionEntries s.params .high (charBytes s.params inv (Memory.read (s.tx.load line) i)))
    (fun i t ⟨hparams, htx, hdc⟩ => by rw [wireLog_sendChar, hparams, htx, hdc]) (fun i t ht => by simpa using ht)
    (s := preamble (row.setWidth 3) (loadText line (beginCommand s))) ⟨by simp, by simp, hdc⟩
  have hline : (List.finRange 16).flatMap (fun i : Fin 16 => charBytes s.params inv (Memory.read (s.tx.load line) i)) =
      lineBytes s.params inv line := by
    conv_rhs => rw [← textOf_load (tx := s.tx) hn, lineBytes, textOf, List.flatMap_map]
  unfold textSent
  rw [hchars, hlog, sessionEntries_flatMap, hline, List.append_assoc]
  rfl

/-! ## The end of a draw -/

@[simp] theorem endWithPortCheck_events (s : State) : (endWithPortCheck s).events = s.events := by
  simp [State.events]

@[simp] theorem endWithPortCheck_wireLog (s : State) : (endWithPortCheck s).wireLog = s.wireLog := by
  simp [State.wireLog]

/-- Events about CLK, MOSI and DC only leave the four other lines. -/
theorem Issued.other_lines {es : List PortEvent} {s t : State} (h : Issued es s t)
    (hes : ∀ r : Role, r ≠ .clk → r ≠ .mosi → r ≠ .dc → ∀ e ∈ es, e.role? ≠ some r) :
    t.lvl.miso = s.lvl.miso ∧ t.lvl.cs = s.lvl.cs ∧ t.lvl.rst = s.lvl.rst ∧ t.lvl.bl = s.lvl.bl := by
  have hlvl : ∀ r : Role, r ≠ .clk → r ≠ .mosi → r ≠ .dc → t.lvl.get r = s.lvl.get r := fun r hc hm hd =>
    h.lvl_get_of_ne (hes r hc hm hd)
  exact ⟨hlvl .miso (by decide) (by decide) (by decide), hlvl .cs (by decide) (by decide) (by decide),
    hlvl .rst (by decide) (by decide) (by decide), hlvl .bl (by decide) (by decide) (by decide)⟩

/-! ## DRAWFRAME -/

/-- Settles O30, from what the sending of a frame issues, with PFAIL clear before it. -/
theorem drawFrameSendsWholeFrame : Obligations.DrawFrameSendsWholeFrame := by
  intro w h payload s hl hv
  have ⟨_, _, hn⟩ := hv
  have hissued := issued_frameSent hn s
  obtain ⟨hevents, -, hpfail⟩ := hissued.command
  refine ⟨_, exec_drawframe_sent hl hv, ?_, ?_, ?_, ?_, ?_, ?_, ?_⟩
  · rw [endWithPortCheck_events, hevents]
  · rw [endWithPortCheck_trace, hissued.trace_length, length_frameEvents]
    rfl
  · rw [endWithPortCheck_wireLog]
    exact wireBytes_frameSent hn s
  · intro row col hr hc
    rw [endWithPortCheck_fb, frameSent_fb, pixel_load hn hr hc]
  · intro p x k hp hx hk
    rw [endWithPortCheck_pb, frameSent_pb, pageRead_toPages hp hx, getLsbD_pageByte _ hk,
      pixel_load hn (by omega) hx]
  · simpa using hpfail
  · simpa using endWithPortCheck_lastres (frameSent payload s)

/-- Settles O31: DC and CLK after the last page, and with no failed call the result is Ok. -/
theorem drawFrameWireEntries : Obligations.DrawFrameWireEntries := by
  intro w h payload s hl hv hok
  have ⟨_, _, hn⟩ := hv
  have hissued := issued_frameSent hn s
  have hp : (frameSent payload s).pfail = 0#7 := hissued.pfail_of_portOk rfl hok (calls_le_length _)
  obtain ⟨pre, hpre⟩ := frameEvents_eq_append_page s.params payload
  obtain ⟨hdc, hclk⟩ := hissued.page_lines hpre (List.ne_nil_of_length_pos (by simp))
    ((hissued.pfail_eq_zero_iff rfl).mp hp)
  rw [length_frameEvents] at hok
  refine ⟨_, exec_drawframe_sent hl hv, ?_, ?_, ?_, ?_, ?_⟩
  · rw [endWithPortCheck_wireLog]
    exact wireLog_frameSent hn hok
  · simpa using hdc
  · simpa using hclk
  · simpa using hp
  · simpa [hp] using endWithPortCheck_lastres (frameSent payload s)

/-- Settles O32, by the refused ends of DRAWFRAME in their order. -/
theorem drawFrameRefusals : Obligations.DrawFrameRefusals := fun _ _ _ _ =>
  ⟨exec_drawframe_notReady, exec_drawframe_invalid⟩

/-- Settles O33, by the two ends of DRAWFRAME. -/
theorem drawFrameFrame : Obligations.DrawFrameFrame := by
  intro w k payload s t h
  obtain ⟨e, rfl⟩ | ⟨-, ⟨-, -, hn⟩, rfl⟩ := exec_drawframe_cases h
  · simp [refusedWith]
  · obtain ⟨hmiso, hcs, hrst, hbl⟩ :=
      (issued_frameSent hn s).other_lines fun _ hc hm hd _ => role?_ne_of_mem_frameEvents hc hm hd
    have hpb : ∀ a, 1024 ≤ a → Memory.read (toPages (s.fb.load payload) s.pb) a = Memory.read s.pb a := fun a ha => by
      rw [read_toPages, if_neg (by omega)]
    have hfb : ∀ a, 1024 ≤ a → Memory.read (s.fb.load payload) a = Memory.read s.fb a := fun a ha => by
      rw [Memory.read_load, if_neg (by omega)]
    simpa using ⟨hmiso, hcs, hrst, hbl, hpb, hfb⟩

/-! ## DRAWTEXT -/

/-- Settles O36, from what the sending of a line issues, with PFAIL clear before it. -/
theorem drawTextSendsOnePage : Obligations.DrawTextSendsOnePage := by
  intro inv rsv row line s hl hn hv
  have ⟨_, _, hchars⟩ := hv
  have hissued := issued_textSent hn inv row s
  obtain ⟨hevents, -, hpfail⟩ := hissued.command
  refine ⟨_, exec_drawtext_sent hn hl hv, ?_, ?_, ?_, ?_, ?_, ?_⟩
  · rw [endWithPortCheck_events, hevents]
  · rw [endWithPortCheck_trace, hissued.trace_length, textEvents, length_pageEvents, length_lineBytes hchars, hn]
    rfl
  · rw [endWithPortCheck_wireLog]
    exact wireBytes_textSent hn inv row s
  · intro i hi
    rw [endWithPortCheck_tx, textSent_tx, Memory.read_load, if_pos (by omega)]
  · simpa using hpfail
  · simpa using endWithPortCheck_lastres (textSent inv row line s)

/-- Settles O37: DC and CLK after the page, and with no failed call the result is Ok. -/
theorem drawTextWireEntries : Obligations.DrawTextWireEntries := by
  intro inv rsv row line s hl hn hv hok
  have ⟨_, _, hchars⟩ := hv
  have hissued := issued_textSent hn inv row s
  have hp : (textSent inv row line s).pfail = 0#7 := hissued.pfail_of_portOk rfl hok (calls_le_length _)
  have hdata : lineBytes s.params inv line ≠ [] :=
    List.ne_nil_of_length_pos (by rw [length_lineBytes hchars, hn]; decide)
  obtain ⟨hdc, hclk⟩ := hissued.page_lines (pre := []) rfl hdata ((hissued.pfail_eq_zero_iff rfl).mp hp)
  have hlog := wireLog_textSent hn inv fun k hk => hok k (hk.trans_le (calls_le_length _))
  refine ⟨_, exec_drawtext_sent hn hl hv, ?_, ?_, ?_, ?_, ?_⟩
  · rw [endWithPortCheck_wireLog]
    exact hlog
  · simpa using hdc
  · simpa using hclk
  · simpa using hp
  · simpa [hp] using endWithPortCheck_lastres (textSent inv row line s)

/-- Settles O42, by the two ends of DRAWTEXT. -/
theorem drawTextFrame : Obligations.DrawTextFrame := by
  intro inv rsv row line s t h
  obtain ⟨e, rfl⟩ | ⟨hn, -, -, rfl⟩ := exec_drawtext_cases h
  · simp [refusedWith]
  · obtain ⟨hmiso, hcs, hrst, hbl⟩ :=
      (issued_textSent hn inv row s).other_lines fun _ hc hm hd _ => role?_ne_of_mem_pageEvents hc hm hd
    have htx : ∀ a, 16 ≤ a → Memory.read (s.tx.load line) a = Memory.read s.tx a := fun a ha => by
      rw [Memory.read_load, if_neg (by omega)]
    simpa [hn] using ⟨hmiso, hcs, hrst, hbl, htx⟩

end Sys2Proof
end

section
/-! SUPPORT. Two claims over all instructions: LIFE moves along the lifecycle (`41_sh1106_controller.md` R90), and chip
select is written by POWERUP only (R102). -/

namespace Sys2Proof

open Sys2Proof.Machine

/-! ## LIFE -/

theorem lifeMayGo_self (l : Life) : lifeMayGo l l = true := by cases l <;> rfl

theorem lifeMayGo_shutDown (l : Life) : lifeMayGo l .shutDown = true := by cases l <;> rfl

theorem powerDownCommand_life (s : State) : (powerDownCommand s).life = .shutDown := rfl

/-- A POWERUP leads from Uninitialized to where its chain rests, and is refused elsewhere. -/
theorem exec_powerup_lifeMayGo {s t : State} (h : exec .powerup s = .next t) : lifeMayGo s.life t.life = true := by
  by_cases hl : s.life = .uninitialized
  · rcases exec_powerup_cases hl with ⟨-, e⟩ | ⟨-, -, e⟩ | ⟨-, -, -, e⟩ | ⟨-, -, -, -, e⟩ | ⟨-, -, -, -, -, e⟩ |
      ⟨-, -, -, -, -, e⟩ <;> cases e.symm.trans h <;> simp [hl, lifeMayGo]
  · cases (exec_powerup_refused hl).symm.trans h
    exact lifeMayGo_self s.life

theorem exec_lifeMayGo {i : Instr} {s t : State} (h : exec i s = .next t) : lifeMayGo s.life t.life = true := by
  by_cases hup : i = .powerup
  · subst hup
    exact exec_powerup_lifeMayGo h
  by_cases hdown : i = .powerdown
  · subst hdown
    cases h
    rw [powerDownCommand_life]
    exact lifeMayGo_shutDown s.life
  · rw [(exec_sameSession hup hdown h).life]
    exact lifeMayGo_self s.life

/-- Settles O53, by the cases of a step without a hardware reset: it executes one instruction, runs POWERDOWN's body,
or leaves LIFE. -/
theorem lifecycleMovesForward : Obligations.LifecycleMovesForward := by
  intro s t h hreset
  rcases step_cases h with ⟨rest, hin, rfl⟩ | ⟨rest, -, rfl⟩ | ⟨-, rfl⟩ | ⟨_, rest, _, -, -, -, he⟩ |
    ⟨_, rest, _, -, -, -, rfl⟩ | ⟨rest, rfl⟩
  · exact absurd (congrArg List.head? hin) hreset
  · exact lifeMayGo_self s.life
  · rw [takeShutdown, powerDownCommand_life]
    exact lifeMayGo_shutDown s.life
  · simpa using exec_lifeMayGo he
  · exact lifeMayGo_self s.life
  · exact lifeMayGo_self s.life

/-! ## Chip select -/

theorem write_cs_not_mem_powerDownEvents (acq : BitVec 7) (v : Bool) : .write .cs v ∉ powerDownEvents acq := by
  simp [powerDownEvents]

/-- Events that are not about CS do not write it. -/
theorem not_writes_cs {es : List PortEvent} (h : ∀ e ∈ es, e.role? ≠ some .cs) (v : Bool) : .write .cs v ∉ es :=
  fun hv => h _ hv rfl

/-- Every instruction but POWERUP issues events none of which writes chip select. -/
theorem exec_issues_no_cs {i : Instr} {s t : State} (hi : i ≠ .powerup) (h : exec i s = .next t) :
    ∃ es, t.events = s.events ++ answered s 0 es ∧ ∀ v, .write .cs v ∉ es := by
  cases i with
  | powerup => exact absurd rfl hi
  | powerdown =>
    cases h
    obtain ⟨hissued, -⟩ := powerDownCommand_spec (beginCommand s)
    obtain ⟨hevents, -⟩ := hissued.command
    exact ⟨_, hevents, write_cs_not_mem_powerDownEvents s.acq⟩
  | drawframe w k payload =>
    obtain ⟨e, rfl⟩ | ⟨-, ⟨-, -, hn⟩, rfl⟩ := exec_drawframe_cases h
    · exact ⟨[], (List.append_nil _).symm, by simp⟩
    · obtain ⟨hevents, -⟩ := (issued_frameSent hn s).command
      refine ⟨_, by rw [endWithPortCheck_events, hevents], not_writes_cs fun _ => ?_⟩
      exact role?_ne_of_mem_frameEvents (by decide) (by decide) (by decide)
  | drawtext inv rsv row line =>
    obtain ⟨e, rfl⟩ | ⟨hn, -, -, rfl⟩ := exec_drawtext_cases h
    · exact ⟨[], (List.append_nil _).symm, by simp⟩
    · obtain ⟨hevents, -⟩ := (issued_textSent hn inv row s).command
      refine ⟨_, by rw [endWithPortCheck_events, hevents], not_writes_cs fun _ => ?_⟩
      exact role?_ne_of_mem_pageEvents (by decide) (by decide) (by decide)
  | writebyte data mode order =>
    obtain ⟨e, rfl⟩ | ⟨o, -, -, -, rfl⟩ := exec_writebyte_cases h
    · exact ⟨[], (List.append_nil _).symm, by simp⟩
    · obtain ⟨hevents, -⟩ := (issued_writeByte data (mode.setWidth 2) o (beginCommand s)).command
      refine ⟨_, by rw [endWithPortCheck_events, hevents], not_writes_cs fun _ => ?_⟩
      exact role?_ne_of_mem_byteEvents (by decide) (by decide)
  | setpage p | setcollo | setcolhi =>
    obtain ⟨v, rfl⟩ := exec_wire_sends rfl h
    refine ⟨_, (issued_sendByte v s).events, not_writes_cs fun _ => ?_⟩
    exact role?_ne_of_mem_byteEvents (by decide) (by decide)

/-- Settles O55: the new entries are those of the events the instruction issues. -/
theorem chipSelectOnlyInPowerUp : Obligations.ChipSelectOnlyInPowerUp := by
  intro i s t hi h
  obtain ⟨es, hevents, hcs⟩ := exec_issues_no_cs hi h
  refine ⟨_, hevents, fun x hx v he => hcs v ?_⟩
  rw [← he]
  exact event_mem_of_mem_answered hx

end Sys2Proof
end

section
/-! SUPPORT. The page converter: `toPages` transposes a frame buffer bit by bit, `fromPages` transposes a page buffer
back, and canonical buffers are determined by those bits (`42_page_converter.md` R110, R111). -/

namespace Sys2Proof

open Sys2Proof.Machine

/-- Settles O34: a byte of the converted frame is the page byte of its place, and row is 8 * (row / 8) + row % 8. -/
theorem toPagesTransposes : Obligations.ToPagesTransposes := by
  intro fb pb
  have hbit : ∀ p x k, p < 8 → x < 128 → k < 8 →
      (pageRead (toPages fb pb) p x).getLsbD k = pixel fb (8 * p + k) x := fun p x k hp hx hk => by
    rw [pageRead_toPages hp hx, getLsbD_pageByte _ hk]
  refine ⟨hbit, fun row col hr hc => ?_⟩
  rw [hbit _ _ _ (by omega) hc (by omega), Nat.div_add_mod]

/-! ## The inverse -/

theorem wf_fromPages (pb : Memory) : Memory.wf (fromPages pb) := Memory.wf_fill memoryWf_nil ..

theorem bound_fromPages (pb : Memory) : ∀ c ∈ fromPages pb, c.1 < 1024 :=
  Memory.bound_fill (Nat.le_refl _) (by simp)

/-- Pixel (row, col) lies in byte row * 16 + col / 8 of a frame buffer, and `fromPages` fills it from the page bytes. -/
theorem pixel_fromPages (pb : Memory) {row col : Nat} (hr : row < 64) (hc : col < 128) :
    pixel (fromPages pb) row col = (pageRead pb (row / 8) col).getLsbD (row % 8) := by
  have hrow : (row * 128 + col) / 8 / 16 = row := by omega
  have hcol : (row * 128 + col) / 8 % 16 * 8 + (row * 128 + col) % 8 = col := by omega
  rw [pixel, fromPages, Memory.read_fill, if_pos (by unfold frameBytes; omega),
    getLsbD_byteOfBits _ (by omega), hrow, hcol]

/-! ## Buffers determined by their bits -/

/-- Canonical buffers of 1024 bytes with the same bits are the same data. -/
theorem buffer_ext_bits {m n : Memory} (hm : Memory.wf m) (hn : Memory.wf n) (hmb : ∀ c ∈ m, c.1 < 1024)
    (hnb : ∀ c ∈ n, c.1 < 1024)
    (h : ∀ a k, a < 1024 → k < 8 → (Memory.read m a).getLsbD k = (Memory.read n a).getLsbD k) : m = n := by
  refine Memory.ext_read hm hn fun a => ?_
  by_cases ha : a < 1024
  · exact BitVec.eq_of_getLsbD_eq fun k hk => h a k ha hk
  · rw [Memory.read_eq_zero fun c hc => by have := hmb c hc; omega,
      Memory.read_eq_zero fun c hc => by have := hnb c hc; omega]

/-- Bit k of byte a of a frame buffer as a pixel. -/
theorem getLsbD_read_eq_pixel (fb : Memory) (a : Nat) {k : Nat} (hk : k < 8) :
    (Memory.read fb a).getLsbD k = pixel fb (a / 16) (a % 16 * 8 + k) := by
  rw [pixel, show (a / 16 * 128 + (a % 16 * 8 + k)) / 8 = a by omega,
    show (a / 16 * 128 + (a % 16 * 8 + k)) % 8 = k by omega]

/-- Byte a of a page buffer as the byte of its page and column. -/
theorem read_eq_pageRead (pb : Memory) (a : Nat) : Memory.read pb a = pageRead pb (a / 128) (a % 128) := by
  rw [pageRead, Nat.div_add_mod']

/-! ## The round trip -/

theorem fromPages_toPages {fb : Memory} (hfb : Memory.wf fb) (hb : ∀ c ∈ fb, c.1 < 1024) (pb : Memory) :
    fromPages (toPages fb pb) = fb := by
  refine buffer_ext_bits (wf_fromPages _) hfb (bound_fromPages _) hb fun a k ha hk => ?_
  rw [getLsbD_read_eq_pixel _ _ hk, getLsbD_read_eq_pixel _ _ hk, pixel_fromPages _ (by omega) (by omega)]
  exact ((toPagesTransposes fb pb).2 _ _ (by omega) (by omega)).symm

theorem toPages_fromPages {pb : Memory} (hpb : Memory.wf pb) (hb : ∀ c ∈ pb, c.1 < 1024) :
    toPages (fromPages pb) [] = pb := by
  refine buffer_ext_bits (wf_toPages memoryWf_nil) hpb (bound_toPages (by simp)) hb fun a k ha hk => ?_
  rw [read_eq_pageRead, read_eq_pageRead, (toPagesTransposes _ _).1 _ _ _ (by omega) (by omega) hk,
    pixel_fromPages _ (by omega) (by omega), show (8 * (a / 128) + k) / 8 = a / 128 by omega,
    show (8 * (a / 128) + k) % 8 = k by omega]

/-- Settles O35: each composition keeps every bit, and the bits determine a canonical buffer. -/
theorem pagesRoundTrip : Obligations.PagesRoundTrip :=
  ⟨fun pb _ _ hr hc => pixel_fromPages pb hr hc, fun _ hfb hb => fromPages_toPages hfb hb [],
    fun _ hpb hb => toPages_fromPages hpb hb⟩

end Sys2Proof
end

section
/-! SUPPORT. The glyphs of DRAWTEXT: their lookup, their columns, and the inverted line
(`42_page_converter.md` R113 to R115). -/

namespace Sys2Proof

open Sys2Proof.Machine

/-- The glyph found for a code is the one `c - 0x20`. -/
theorem glyphIndex_eq_some {c : Byte} {g : Fin 95} (h : glyphIndex c = some g) : g.val = c.toNat - 0x20 := by
  unfold glyphIndex at h
  split at h
  · cases h
    rfl
  · cases h

/-- Settles O40, from the range check of the lookup; entry 0 is fixed by the model. -/
theorem glyphLookup : Obligations.GlyphLookup :=
  ⟨glyphIndex_isSome_iff, fun _ _ => glyphIndex_eq_some, fun _ => rfl⟩

/-- Settles O41: each column continues the bits to its left, and all eight together are the whole pattern. -/
theorem glyphColumnsSplitPattern : Obligations.GlyphColumnsSplitPattern := by
  intro g
  unfold glyphColumn
  iterate 7 rw [BitVec.extractLsb'_append_extractLsb'_eq_extractLsb' (by rfl)]
  exact BitVec.extractLsb'_eq_self

/-! ## The inverted line -/

theorem invertIf_true (v : Byte) : invertIf true v = invertIf false v ^^^ 0xFF#8 := (BitVec.xor_allOnes (x := v)).symm

theorem charBytes_true (p : Params) (c : Byte) :
    charBytes p true c = (charBytes p false c).map (· ^^^ 0xFF#8) := by
  unfold charBytes
  cases glyphIndex c with
  | none => rfl
  | some g => simp only [List.map_map, invertIf_true, Function.comp_def]

theorem lineBytes_true (p : Params) (line : List Byte) :
    lineBytes p true line = (lineBytes p false line).map (· ^^^ 0xFF#8) := by
  rw [lineBytes, lineBytes, List.map_flatMap]
  exact congrArg line.flatMap (funext (charBytes_true p))

/-- Settles O39: both calls send the line's bytes on the same page, and those of the inverted line are complements. -/
theorem invertedTextIsComplement : Obligations.InvertedTextIsComplement := by
  intro row line s hl hn hv
  have ⟨_, _, hchars⟩ := hv
  refine ⟨_, _, lineBytes s.params false line, exec_drawtext_sent hn hl hv, exec_drawtext_sent hn hl hv, ?_, ?_, ?_⟩
  · rw [length_lineBytes hchars, hn]
  · rw [endWithPortCheck_wireLog]
    exact wireBytes_textSent hn false row s
  · rw [endWithPortCheck_wireLog, ← lineBytes_true]
    exact wireBytes_textSent hn true row s

end Sys2Proof
end

section
/-! SUPPORT. The errors and the shutdown request (`60_exceptions.md`): what a command that ends in InvalidArgument or
SequenceViolation changed (R123, R124), and what the idle block does with a request (R125) and after it. -/

namespace Sys2Proof

open Sys2Proof.Machine

/-! ## Refused commands -/

/-- The result is neither InvalidArgument nor SequenceViolation. -/
def ReportsNoRefusal (w : Word) : Prop := w.getLsbD 2 = false ∧ w.getLsbD 3 = false

/-- The kinds of result a command can have that ran: `Ok` and the two kinds of port failure. -/
def ranKinds : List (Option ErrorKind) := [none, some .pinUnavailable, some .pinAccessError]

theorem getLsbD_resultWord_kind {n : Nat} (hn : n < 4) (k : Option ErrorKind) (mask : BitVec 7) (s : State) :
    (resultWord k mask s).getLsbD n = (kindBits k).getLsbD n := by
  rw [← kind_resultWord k mask s, BitVec.getLsbD_extractLsb', decide_eq_true hn, Bool.true_and, Nat.zero_add]

theorem reportsNoRefusal_resultWord {k : Option ErrorKind} (hk : k ∈ ranKinds) (mask : BitVec 7) (s : State) :
    ReportsNoRefusal (resultWord k mask s) := by
  rw [ReportsNoRefusal, getLsbD_resultWord_kind (by decide), getLsbD_resultWord_kind (by decide)]
  revert k
  decide

theorem reportsNoRefusal_endWithPortCheck (s : State) : ReportsNoRefusal (endWithPortCheck s).lastres := by
  rw [endWithPortCheck_lastres]
  refine reportsNoRefusal_resultWord ?_ _ _
  split <;> decide

theorem reportsNoRefusal_powerDownCommand (s : State) : ReportsNoRefusal (powerDownCommand s).lastres := by
  obtain ⟨-, -, -, -, -, hlastres⟩ := powerDownCommand_spec s
  rw [hlastres]
  exact reportsNoRefusal_resultWord (by decide) _ _

/-- A POWERUP is refused, or it stops at a step boundary or in Ready. -/
theorem exec_powerup_refused_or_ran {s t : State} (h : exec .powerup s = .next t) :
    (∃ e, t = refusedWith e s) ∨ ReportsNoRefusal t.lastres := by
  by_cases hl : s.life = .uninitialized
  · right
    rcases exec_powerup_cases hl with ⟨-, e⟩ | ⟨-, -, e⟩ | ⟨-, -, -, e⟩ | ⟨-, -, -, -, e⟩ | ⟨-, -, -, -, -, e⟩ |
      ⟨-, -, -, -, -, e⟩ <;> cases e.symm.trans h <;> exact reportsNoRefusal_resultWord (by decide) _ _
  · cases (exec_powerup_refused hl).symm.trans h
    exact .inl ⟨_, rfl⟩

/-- A host command is refused before it has changed anything, or it runs and reports no refusal. -/
theorem exec_refused_or_ran {i : Instr} {s t : State} (hsp : i.space = .host) (h : exec i s = .next t) :
    (∃ e, t = refusedWith e s) ∨ ReportsNoRefusal t.lastres := by
  cases i with
  | powerup => exact exec_powerup_refused_or_ran h
  | powerdown => cases h; exact .inr (reportsNoRefusal_powerDownCommand _)
  | drawframe w k payload =>
    obtain he | ⟨-, -, rfl⟩ := exec_drawframe_cases h
    · exact .inl he
    · exact .inr (reportsNoRefusal_endWithPortCheck _)
  | drawtext inv rsv row line =>
    obtain he | ⟨-, -, -, rfl⟩ := exec_drawtext_cases h
    · exact .inl he
    · exact .inr (reportsNoRefusal_endWithPortCheck _)
  | writebyte data mode order =>
    obtain he | ⟨o, -, -, -, rfl⟩ := exec_writebyte_cases h
    · exact .inl he
    · exact .inr (reportsNoRefusal_endWithPortCheck _)
  | setpage p | setcollo | setcolhi => cases hsp

/-- Settles O56: only a command that is refused at once ends in one of the two kinds. -/
theorem refusedCommandsAreExact : Obligations.RefusedCommandsAreExact := by
  intro i s t hsp h hkind
  obtain ⟨e, rfl⟩ | ⟨h2, h3⟩ := exec_refused_or_ran hsp h
  · rfl
  · rw [h2, h3] at hkind
    exact absurd hkind (by decide)

/-! ## Commands in ShutDown -/

/-- Without pins the SPI lines are not held. -/
theorem not_spiLinesHeld_of_released {s : State} (hacq : s.acq = 0#7) : ¬SpiLinesHeld s := by
  rintro ⟨hclk, -⟩
  simp [hacq] at hclk

/-- In ShutDown, where nothing is held, every host command but POWERDOWN is refused (R127). -/
theorem exec_of_shutDown {i : Instr} {s : State} (hlife : s.life = .shutDown) (hacq : s.acq = 0#7)
    (hwf : i.WellFormed) (hsp : i.space = .host) (hi : i ≠ .powerdown) :
    exec i s = .next (refusedWith .sequenceViolation s) := by
  cases i with
  | powerup => exact exec_powerup_refused (by simp [hlife])
  | powerdown => exact absurd rfl hi
  | drawframe w k payload => exact exec_drawframe_notReady (by simp [hlife])
  | drawtext inv rsv row line => exact exec_drawtext_notReady (beq_iff_eq.mp hwf) (by simp [hlife])
  | writebyte data mode order => exact exec_writebyte_notHeld (not_spiLinesHeld_of_released hacq)
  | setpage p | setcollo | setcolhi => cases hsp

/-- In ShutDown POWERDOWN only writes its result (`41_sh1106_controller.md` R101). -/
theorem exec_powerdown_of_shutDown {s : State} (hlife : s.life = .shutDown) (hinited : s.inited = false)
    (hacq : s.acq = 0#7) :
    exec .powerdown s = .next { s with pfail := 0#7, lastres := 0x00002800#32 } := by
  have hrun : exec .powerdown s =
      .next (finish none 0#7 { beginCommand s with life := .shutDown, inited := false }) :=
    congrArg _ (powerDownCommand_of_released (s := beginCommand s) hacq)
  rw [← hlife, ← hinited] at hrun
  have hword : resultWord none 0#7 s = 0x00002800#32 := by
    rw [resultWord, hinited, hacq, hlife]
    rfl
  rw [← hword]
  exact hrun

/-! ## The shutdown request -/

/-- Settles O7: the request's POWERDOWN ends in ShutDown with nothing held, where the packet is then taken. -/
theorem shutdownRequestWinsOverPacket : Obligations.ShutdownRequestWinsOverPacket := by
  intro s b rest hs hin
  obtain ⟨-, hacq, -, hlife, hinited, -⟩ := powerDownCommand_spec (beginCommand { s with sdreq := false })
  have hsdreq : (takeShutdown s).sdreq = false := powerDownCommand_sdreq _
  have hinbox : (takeShutdown s).inbox = .packet b :: rest := (powerDownCommand_inbox _).trans hin
  have hnext := step_of_packet hsdreq hinbox
  refine ⟨takeShutdown s, step_of_sdreq hs (by simp [hin]) (by simp [hin]), rfl, hsdreq, hinbox, hlife,
    fun i hd hi => ?_, fun hd => ?_, malformedPacketIsRejected _ b rest hsdreq hinbox⟩
  · obtain ⟨hwf, hsp, -⟩ := decodedPacketReencodes b i hd
    rw [hnext, runPacket_ok hd]
    exact exec_of_shutDown (s := withInbox rest (takeShutdown s)) hlife hacq hwf hsp hi
  · rw [hnext, runPacket_ok hd]
    exact exec_powerdown_of_shutDown (s := withInbox rest (takeShutdown s)) hlife hinited hacq

/-- Settles O8: neither form of an empty inbox keeps the request from being taken. -/
theorem shutdownRequestTakenWhenIdle : Obligations.ShutdownRequestTakenWhenIdle := by
  rintro s hs (hin | ⟨rest, hin⟩)
  · exact step_of_sdreq hs (by simp [hin]) (by simp [hin])
  · exact step_of_sdreq hs (by simp [hin]) (by simp [hin])

/-- Settles O9, input by input. -/
theorem requestArrivalAndIdling : Obligations.RequestArrivalAndIdling :=
  ⟨fun _ _ => step_of_request, fun _ _ => step_of_idle, fun _ => step_of_nil⟩

/-! ## Every step completes -/

/-- Each instruction's meaning answers with a next state. -/
theorem exec_completes (i : Instr) (s : State) : ∃ t, exec i s = .next t := by
  cases i <;> exact ⟨_, rfl⟩

theorem runPacket_completes (b : List Byte) (s : State) : ∃ t, runPacket b s = .next t := by
  cases hd : decode b with
  | ok i =>
    rw [runPacket_ok hd]
    exact exec_completes i s
  | error e => exact ⟨_, runPacket_error hd s⟩

/-- Settles O12: whatever the idle block decides, it goes on; a packet it takes completes. -/
theorem everyStepCompletes : Obligations.EveryStepCompletes := by
  intro s
  rw [step]
  cases nextAction s.sdreq s.inbox with
  | packet b rest => exact runPacket_completes b _
  | hardwareReset rest | raiseRequest rest | takeShutdown | stayIdle rest => exact ⟨_, rfl⟩

end Sys2Proof
end

section
/-! SUPPORT. The hardware reset as a step (`70_reset_and_hazards.md` R140, `10_state.md` R28). -/

namespace Sys2Proof

open Sys2Proof.Machine

/-- Settles O10: a reset at the head of the inbox is taken whatever SDREQ is, and `hardwareReset` builds its
state from `State.reset`, with only what R25 and the environment own carried over. -/
theorem hardwareResetFromAnyState : Obligations.HardwareResetFromAnyState := by
  intro s rest hin
  have hstep : step s = .next (hardwareReset (withInbox rest s)) := step_of_hardReset hin
  exact ⟨_, hstep, rfl, rfl, rfl, rfl, rfl, rfl, rfl, rfl, rfl, rfl, rfl, rfl⟩

end Sys2Proof
end
